-- ==== Sys2Proof/Word.lean ====
section
/-! DEFINITION. The bit-vector widths of OWCORE (10_state.md R28, R33, R59; 60_exceptions.md R291). -/

namespace Sys2Proof

/-- A byte is 8 bits (R10). -/
abbrev Byte := BitVec 8

/-- One word of the host register space, and one command word (R70, R100). -/
abbrev Word := BitVec 32

/-- A word address of the host register space, `h_addr[5:0]` (R26, R70). -/
abbrev Addr := BitVec 6

/-- A search position or a CAUSE.INFO value: 7 bits (R33, R59, R291). -/
abbrev Pos := BitVec 7

/-- A device identifier, eight bytes, byte 0 the family code (R54). -/
abbrev Rom := Vector Byte 8

/-- The nine-byte buffer BUF (R30). -/
abbrev Buf := Vector Byte 9

end Sys2Proof
end

