-- ==== Sys2Proof/Config.lean ====
section
/-! DEFINITION. The parameters of OWCORE (00_scope.md R8, R9) and the model's free values. -/

namespace Sys2Proof

/-- The parameters of R8 with their defaults. R9 asks for the seven `CMD_*` bytes, the ten `T_*`
tick counts and `LDISC_INIT` as named fields, so that an audit of a literal changes a field and no
rule. All times are counts of `us_tick`. The `CMD_*` values are PRESUMED by the spec itself
(R107, 93_implementation_defined.md G1): log 14. -/
structure Config where
  /-- T_RSTL: reset low time. -/
  tRstl : Nat := 480
  /-- T_PDS: release to presence sample. -/
  tPds : Nat := 60
  /-- T_RSTREST: presence sample to end of the reset slot. -/
  tRstRest : Nat := 420
  /-- T_RDLOW: read slot low pulse. -/
  tRdLow : Nat := 2
  /-- T_RDSAMPLE: read slot start to sample. -/
  tRdSample : Nat := 8
  /-- T_RDREC: sample to end of the read slot. -/
  tRdRec : Nat := 40
  /-- T_WRLOW: write slot initial low pulse. -/
  tWrLow : Nat := 2
  /-- T_WRSLOT: time the bit value is driven. -/
  tWrSlot : Nat := 60
  /-- T_WRREC: release to end of the write slot. -/
  tWrRec : Nat := 2
  /-- T_SPUOFF: strong pull-up off to first bus action. -/
  tSpuOff : Nat := 1
  /-- T_CONV in microseconds: the host's wait after CONVERT, not counted by the engine (R242), so no rule reads it. -/
  tConv : Nat := 750000
  /-- BUF_LEN: the width of `Buf`. -/
  bufLen : Nat := 9
  cmdSearchRom : Byte := 0xF0
  cmdMatchRom : Byte := 0x55
  cmdSkipRom : Byte := 0xCC
  cmdConvertT : Byte := 0x44
  cmdReadScratch : Byte := 0xBE
  cmdWriteScratch : Byte := 0x4E
  cmdReadPower : Byte := 0xB4
  /-- LDISC_INIT: the last discrepancy before the first iteration (R201). -/
  ldiscInit : Pos := 65
  /-- CRC_POLY, reflected (R180). -/
  crcPoly : Byte := 0x8C
  /-- CRC_INIT (R183). -/
  crcInit : Byte := 0x00
  /-- FAM_LEGACY (R19, R111). -/
  famLegacy : List Byte := [0x10]
  /-- FAM_EXT (R19, R111). -/
  famExt : List Byte := [0x22, 0x28]
  /-- HAS_SPU: the `spu_out` port exists (R8). No rule reads the parameter: CFG.SPU_EN enables the port's use. -/
  hasSpu : Bool := true
  deriving DecidableEq, Repr

/-- The configuration the machine is built with: every parameter at its default of R8. -/
def config : Config := {}

/-- R161: the constraints the times must keep. -/
def Config.timesOk (c : Config) : Bool :=
  decide (1 ≤ c.tRdLow) && decide (c.tRdLow < c.tRdSample) && decide (1 ≤ c.tWrLow) &&
    decide (1 ≤ c.tWrSlot)

/-- FREE VALUE (93_implementation_defined.md U19, "any value"): the level of `ow_in` at a sample
point for which the list `State.line` holds no answer, applied to the counter `State.draws`. Log 2. -/
opaque Config.freeSample : Nat → Bool

/-- FREE VALUE (R76, U7): what a host read of a register other than STATUS returns while BUSY = 1,
applied to the counter `State.readDraws`. Log 4. -/
opaque Config.freeRead : Nat → Word

/-- FREE VALUE (R8, R283, U22): N_CYC, the `clk` cycles a non-bus command keeps BUSY set. Log 5. -/
opaque Config.nCyc : Nat

end Sys2Proof
end

