-- ==== Sys2Proof/Syntax.lean ====
section
/-! DEFINITION. The 24 commands of OWCORE as one inductive, one constructor per row of the opcode
map (30_encoding.md R103). Operands are those of R101 and R102: unsigned, as they stand in ARG. -/

namespace Sys2Proof

inductive Instr where
  /-- 0x00 NOP (R280). -/
  | nop
  /-- 0x01 RESET (R147). -/
  | reset
  /-- 0x02 READ_BIT (R148). -/
  | readBit
  /-- 0x03 WRITE_BIT, the bit to write (R149). -/
  | writeBit (bit : Bool)
  /-- 0x04 READ_BYTE (R150). -/
  | readByte
  /-- 0x05 WRITE_BYTE, the byte to send (R151). -/
  | writeByte (imm : Byte)
  /-- 0x06 READ_BYTES, the count n (R152). -/
  | readBytes (n : Byte)
  /-- 0x07 WRITE_BYTES, the count n (R153). -/
  | writeBytes (n : Byte)
  /-- 0x10 CRC_CLR (R185). -/
  | crcClr
  /-- 0x11 CRC_UPD, the byte to fold in (R186). -/
  | crcUpd (imm : Byte)
  /-- 0x12 CRC_BUF, the count n (R187). -/
  | crcBuf (n : Byte)
  /-- 0x13 CRC_ROM, S: false ROM, true SROM (R188). -/
  | crcRom (srom : Bool)
  /-- 0x20 SEARCH_INIT (R206). -/
  | searchInit
  /-- 0x21 SEARCH_NEXT (R207). -/
  | searchNext
  /-- 0x22 ROM_TAKE (R213). -/
  | romTake
  /-- 0x30 SELECT (R233). -/
  | select
  /-- 0x31 SKIP (R234). -/
  | skip
  /-- 0x40 CONVERT, BCAST: false addressed, true broadcast (R241). -/
  | convert (bcast : Bool)
  /-- 0x41 READ_SPAD (R243). -/
  | readSpad
  /-- 0x42 WRITE_SPAD (R245). -/
  | writeSpad
  /-- 0x43 DECODE (R251): the temperature decode. -/
  | decodeTemp
  /-- 0x44 GET_RES (R258). -/
  | getRes
  /-- 0x45 SET_RES, the resolution in bits (R259). -/
  | setRes (bits : Byte)
  /-- 0x46 POWERMODE, BCAST (R262). -/
  | powerMode (bcast : Bool)
  deriving DecidableEq, Repr

end Sys2Proof
end

