-- ==== Sys2Proof/Machine/State.lean ====
section
/-! DEFINITION. The state of OWCORE (10_state.md), the inputs of its ports, and the machine after
`rst` (R52). Everything is plain data. -/

namespace Sys2Proof.Machine

/-- The cause codes of R290. Codes 6 and 7 are never produced (93_implementation_defined.md U12), so
the type has six values. -/
inductive Cause where
  /-- Code 0: the command reached its last line. -/
  | ok
  /-- Code 1: a reset slot found no presence (R292). -/
  | busAbsent
  /-- Code 2: both read slots of a search position returned 1 (R293). -/
  | busCollisionFault
  /-- Code 3: CRC8 mismatch on a scratchpad read (R294). -/
  | checksumFault
  /-- Code 4: DECODE of an unknown family (R295). -/
  | unsupportedFamily
  /-- Code 5: a malformed word or operand (R296). -/
  | invalidArgument
  deriving DecidableEq, Repr

/-- One slot of the bus trace (R289; the notation of 95_test_vectors.md). -/
inductive Slot where
  /-- `RS1` or `RS0`: a reset slot, and whether it saw presence. -/
  | reset (presence : Bool)
  /-- `r0` or `r1`: a read slot and the bit sampled. -/
  | read (b : Bool)
  /-- `w0` or `w1`: a write slot and the bit sent. -/
  | write (b : Bool)
  deriving DecidableEq, Repr

/-- One host access (R26, R70): the load and store of this hardware (R285). -/
inductive Access where
  /-- `HostRead(a)`: `h_sel = 1, h_we = 0`. -/
  | read (a : Addr)
  /-- `HostWrite(a, v)`: `h_sel = 1, h_we = 1`. -/
  | write (a : Addr) (v : Word)
  deriving DecidableEq, Repr

/-- What the inputs of OWCORE are at one rising edge of `clk` (R21, R22, R26). The level of `ow_in`
is not here: it matters at the sample points only (R157) and stands in `State.line`. -/
structure Cycle where
  rst : Bool
  usTick : Bool
  host : Option Access
  deriving DecidableEq, Repr

/-- One input of the machine, at one of the two levels of R16 (log 1). -/
inductive Input where
  /-- Slot level (R289): one host access; a command written to CMD runs to its end. -/
  | access (a : Access)
  /-- Clk and tick level: one edge of `clk`; a command written to CMD starts and runs over the
  `us_tick` pulses of later edges (R140). -/
  | clk (c : Cycle)
  deriving DecidableEq, Repr

/-- The state of OWCORE. -/
structure State where
  /-- `ow_out`: false pulls the line low, true releases it (R23). -/
  owOut : Bool
  /-- `crit` (R25). -/
  crit : Bool
  /-- `busy`, STATUS.BUSY (R26, R38). -/
  busy : Bool
  /-- `h_rdata` (R26): the word returned by the last step's host read, `none` where the last step
  held no host read and the port is not valid (log 6). -/
  hRdata : Option Word
  /-- SPUL, the strong pull-up latch (R42). -/
  spul : Bool
  /-- STATUS.PRESENCE (R39). -/
  presence : Bool
  /-- STATUS.FOUND (R40). -/
  found : Bool
  /-- STATUS.PMODE (R41): false PARASITE, true STRONG. -/
  pmode : Bool
  /-- STATUS.TVALID (R44). -/
  tvalid : Bool
  /-- CAUSE.CODE (R46, R290). -/
  cause : Cause
  /-- CAUSE.INFO (R46, R291). -/
  info : Pos
  /-- CFG.SPU_EN (R47). -/
  spuEn : Bool
  /-- DATA (R29). -/
  data : Byte
  /-- BUF[0..8] (R30, R55). -/
  buf : Buf
  /-- ROM[0..7], the address operand (R31). -/
  rom : Rom
  /-- SROM[0..7], the search state and result (R32). -/
  srom : Rom
  /-- LDISC (R33). -/
  ldisc : Pos
  /-- CRC, the running accumulator (R34). -/
  crc : Byte
  /-- TNUM, two's complement (R35). -/
  tnum : BitVec 32
  /-- TDEN (R35). -/
  tden : BitVec 16
  /-- TC100, two's complement (R35). -/
  tc100 : BitVec 32
  /-- RES (R36). -/
  res : BitVec 4
  /-- OPC of the running command (R49). -/
  opc : Byte
  /-- ARG of the running command (R49). -/
  arg : Byte
  /-- STEP: the index of the running primitive in the command's list of primitives (R49, log 12). -/
  stepIx : Nat
  /-- BYTEIX: the byte being transferred, 0 to 8 (R49). -/
  byteIx : Nat
  /-- BITIX: the bit being transferred, 0 to 7 (R49). -/
  bitIx : Nat
  /-- SHREG: the byte being assembled or sent (R49). -/
  shreg : Byte
  /-- TCNT: the boundary of the running primitive that the next `us_tick` pulse is, 0 to 960
  (R49, log 10). -/
  tcnt : Nat
  /-- WROM[0..7], the ROM under construction (R50). -/
  wrom : Rom
  /-- POS, the search position counter (R50). -/
  pos : Pos
  /-- NDISC, the discrepancy being recorded (R50). -/
  ndisc : Pos
  /-- IDB (R50). -/
  idb : Bool
  /-- CMPB (R50). -/
  cmpb : Bool
  /-- MODEL: the command word of a non-bus or refused command written at clk level and the `clk`
  cycles of N_CYC left before it takes effect (R283, log 5). -/
  hold : Option (Word × Nat)
  /-- MODEL: the inputs to come, first first (R51, log 8). -/
  inputs : List Input
  /-- MODEL: the levels of `ow_in` at the sample points to come, first first (R51, R157, log 2). -/
  line : List Bool
  /-- MODEL: how many free samples were drawn (log 2). -/
  draws : Nat
  /-- MODEL: how many free words were read while BUSY = 1 (log 4). -/
  readDraws : Nat
  /-- MODEL: the slots issued, oldest first: the bus trace of R289 (log 7). -/
  trace : List Slot
  /-- MODEL: the `us_tick` periods spent in primitives: the durations of R356 (log 7). -/
  ticks : Nat
  deriving DecidableEq, Repr

/-- The machine after `rst`: the table of R52. WROM, POS, NDISC, IDB and CMPB are unspecified there
and hold a DESIGN CHOICE (log 3); the model's own fields hold log 2, 4, 5, 6, 7 and 8. -/
def State.reset : State where
  owOut := true
  crit := false
  busy := false
  hRdata := none
  spul := false
  presence := false
  found := false
  pmode := false
  tvalid := false
  cause := .ok
  info := 0
  spuEn := false
  data := 0x00
  buf := Vector.replicate 9 0x00
  rom := Vector.replicate 8 0x00
  srom := Vector.replicate 8 0x00
  ldisc := config.ldiscInit
  crc := config.crcInit
  tnum := 0
  tden := 0
  tc100 := 0
  res := 0
  opc := 0
  arg := 0
  stepIx := 0
  byteIx := 0
  bitIx := 0
  shreg := 0
  tcnt := 0
  wrom := Vector.replicate 8 0x00
  pos := 0
  ndisc := 0
  idb := false
  cmpb := false
  hold := none
  inputs := []
  line := []
  draws := 0
  readDraws := 0
  trace := []
  ticks := 0

/-- Why the machine stops with a fault: never. Nothing in the spec stops OWCORE: a fault of the spec
ends a command, is reported in CAUSE and is a next state (R300, R303; log 15). -/
inductive Fault where
  deriving DecidableEq, Repr

/-- Why a step has no meaning. -/
inductive Refusal where
  /-- Raised by an arm of `exec` whose instruction has no meaning yet; no arm raises it (safe: a
  refused instruction proves nothing about the hardware). -/
  | notModelled (mnemonic : String)
  deriving DecidableEq, Repr

/-- The outcome of a step of OWCORE. -/
abbrev Result := Host.Outcome State Fault Refusal

end Sys2Proof.Machine
end

