-- ==== Sys2Proof/Machine/Operands.lean ====
section
/-! DEFINITION. Bits and bytes of the operands: byte arrays, search positions (42_rom_search.md R202),
the family of a device (00_scope.md R19), the bit order of a byte on the wire (20_memory.md R78). -/

namespace Sys2Proof.Machine

/-- The k-th byte of a byte array (R12). No rule reads beyond the end; there the value is 0. -/
def byteAt {n : Nat} (v : Vector Byte n) (k : Nat) : Byte := v[k]?.getD 0

/-- `v[k] <- x` (R12). No rule writes beyond the end; there nothing is written. -/
def setByte {n : Nat} (v : Vector Byte n) (k : Nat) (x : Byte) : Vector Byte n :=
  v.setIfInBounds k x

/-- `v[j] <- b` on a byte (R10). -/
def setBit (v : Byte) (j : Nat) (b : Bool) : Byte :=
  if b then v ||| (1#8 <<< j) else v &&& ~~~(1#8 <<< j)

/-- `zext_8` of a bit (R11). -/
def bitByte (b : Bool) : Byte := if b then 1 else 0

/-- The bits of a byte in the order they travel: bit 0 first (R78, R108). -/
def wireBits (v : Byte) : List Bool := (List.range 8).map v.getLsbD

/-- The byte k of search position i: `(64 − i) >> 3` (R202). -/
def posByte (i : Nat) : Nat := (64 - i) / 8

/-- The bit j of search position i: `(64 − i) & 7` (R202). -/
def posBit (i : Nat) : Nat := (64 - i) % 8

/-- The bit of a ROM at search position i: `ROM[k][j]` (R202). -/
def romBit (r : Rom) (i : Nat) : Bool := (byteAt r (posByte i)).getLsbD (posBit i)

/-- `ROM[k][j] <- b` at search position i (R205). -/
def setRomBit (r : Rom) (i : Nat) (b : Bool) : Rom :=
  setByte r (posByte i) (setBit (byteAt r (posByte i)) (posBit i) b)

/-- The branch rule at a collision at position i (R204): branch 1 is taken iff the position lies
after the previous discrepancy, or the previous ROM took 1 there and it is not that discrepancy. -/
def takesBranchOne (srom : Rom) (ldisc i : Pos) : Bool :=
  decide (ldisc.toNat > i.toNat) || (romBit srom i.toNat && decide (ldisc ≠ i))

/-- The family tags of R19. -/
inductive Family where
  | legacy9
  | extended12
  | unsupported
  deriving DecidableEq, Repr

/-- `family(b)` (R19, R111): total on bytes. -/
def family (b : Byte) : Family :=
  if config.famLegacy.contains b then .legacy9
  else if config.famExt.contains b then .extended12
  else .unsupported

/-- The configuration byte of a resolution (R110, R259): `((bits − 9) << 5) | 0x1f`. -/
def configByte (bits : Byte) : Byte := ((bits - 9) <<< 5) ||| 0x1F

/-- The resolution a configuration byte carries (R258): `((b >> 5) & 3) + 9`. -/
def resolutionOf (b : Byte) : BitVec 4 := (b.extractLsb' 5 2).zeroExtend 4 + 9

end Sys2Proof.Machine
end

