-- ==== Sys2Proof/Machine/Flags.lean ====
section
/-! DEFINITION. The combinational flags and the words STATUS and CAUSE (10_state.md R24, R37 to R46). -/

namespace Sys2Proof.Machine

/-- `spu_out` = STATUS.SPU = `CFG.SPU_EN and SPUL` (R24, R42). -/
def State.spuOut (s : State) : Bool := s.spuEn && s.spul

/-- STATUS.CRCZ: 1 iff CRC == 0 (R43). -/
def State.crcz (s : State) : Bool := s.crc == 0

/-- STATUS.SDONE: 1 iff LDISC == 0 (R45). -/
def State.sdone (s : State) : Bool := s.ldisc == 0

/-- A flag at bit `k` of a host word. -/
def flagAt (b : Bool) (k : Nat) : Word := if b then 1#32 <<< k else 0

/-- The STATUS word (R37): bits 31:8 read 0. -/
def State.statusWord (s : State) : Word :=
  flagAt s.busy 0 ||| flagAt s.presence 1 ||| flagAt s.found 2 ||| flagAt s.pmode 3 |||
    flagAt s.spuOut 4 ||| flagAt s.crcz 5 ||| flagAt s.tvalid 6 ||| flagAt s.sdone 7

/-- The numeric code of a cause (R290). -/
def Cause.code : Cause → BitVec 3
  | .ok => 0
  | .busAbsent => 1
  | .busCollisionFault => 2
  | .checksumFault => 3
  | .unsupportedFamily => 4
  | .invalidArgument => 5

/-- The CAUSE word (R46): CODE in bits 2:0, INFO in bits 14:8, every other bit 0. -/
def State.causeWord (s : State) : Word :=
  s.cause.code.zeroExtend 32 ||| (s.info.zeroExtend 32 <<< 8)

/-- The INFO values each cause can record (R291). -/
def Cause.infoLegal (c : Cause) (i : Pos) : Bool :=
  match c with
  | .ok => i == 0
  | .busAbsent => i == 0
  | .busCollisionFault => decide (1 ≤ i.toNat) && decide (i.toNat ≤ 64)
  | .checksumFault => i == 0
  | .unsupportedFamily => i == 0
  | .invalidArgument => decide (1 ≤ i.toNat) && decide (i.toNat ≤ 6)

end Sys2Proof.Machine
end

