-- ==== Sys2Proof/Machine/Ops.lean ====
section
/-! DEFINITION. The shared operations: start and end of a command, `raise`, the samples of `ow_in`,
the bus primitives at slot level (40_bit_transport.md R141 to R146), the addressing sequences
(43_bus_addressing.md R231 to R235), and the host register space (20_memory.md R71 to R74). -/

namespace Sys2Proof.Machine

/-! ### Start and end of a command -/

/-- The first lines of R281: `BUSY <- 1 ; OPC <- w[7:0] ; ARG <- w[15:8]`. -/
def accept (w : Word) (s : State) : State :=
  { s with busy := true, opc := w.extractLsb' 0 8, arg := w.extractLsb' 8 8 }

/-- The sequencer state returns to idle (R282). -/
def idle (s : State) : State :=
  { s with busy := false, opc := 0, arg := 0, stepIx := 0, byteIx := 0, bitIx := 0, shreg := 0,
           tcnt := 0, hold := none }

/-- R282, the end of a command: CAUSE.CODE and CAUSE.INFO are written, BUSY falls and the sequencer
returns to idle, in one step. -/
def endCommand (c : Cause) (i : Pos) (s : State) : State :=
  idle { s with cause := c, info := i }

/-- The last line of a command's pseudocode, `CAUSE <- (OK, 0)` (R282, R290). -/
def finish (s : State) : State := endCommand .ok 0 s

/-- TAKING A FAULT, `raise <Cause>(info)` (R300, R303): the command ends with the cause; register
writes made before stay; nothing is saved and control goes nowhere. The return from it is the next
command (R304): there is nothing to restore. -/
def raise (c : Cause) (i : Pos) (s : State) : State := endCommand c i s

/-! ### Single registers -/

/-- `ow_out <- b` (R23). -/
def setOwOut (b : Bool) (s : State) : State := { s with owOut := b }

/-- `crit <- b` (R25). -/
def setCrit (b : Bool) (s : State) : State := { s with crit := b }

/-- `SPUL <- b` (R42). -/
def setSpul (b : Bool) (s : State) : State := { s with spul := b }

/-- `STATUS.PRESENCE <- p` (R39). -/
def setPresence (p : Bool) (s : State) : State := { s with presence := p }

/-- `STATUS.FOUND <- b` (R40). -/
def setFound (b : Bool) (s : State) : State := { s with found := b }

/-- `STATUS.PMODE <- b` (R41). -/
def setPmode (b : Bool) (s : State) : State := { s with pmode := b }

/-- `STATUS.TVALID <- b` (R44). -/
def setTvalid (b : Bool) (s : State) : State := { s with tvalid := b }

/-- `LDISC <- v` (R33). -/
def setLdisc (v : Pos) (s : State) : State := { s with ldisc := v }

/-- `DATA <- v` (R29). -/
def setData (v : Byte) (s : State) : State := { s with data := v }

/-- `CRC <- v` (R34). -/
def setCrc (v : Byte) (s : State) : State := { s with crc := v }

/-- `BUF[k] <- v` (R30). -/
def setBufByte (k : Nat) (v : Byte) (s : State) : State := { s with buf := setByte s.buf k v }

/-! ### The environment's answers -/

/-- The k-th coming sample of `ow_in`, k from 0: the k-th entry of the list, and a free value beyond
its end (U19, log 2). -/
def State.sampleAt (s : State) (k : Nat) : Bool :=
  if k < s.line.length then s.line.getD k false
  else Config.freeSample (s.draws + (k - s.line.length))

/-- The state after n samples of `ow_in` were taken. -/
def State.skipSamples (s : State) (n : Nat) : State :=
  { s with line := s.line.drop n, draws := s.draws + (n - s.line.length) }

/-- One sample of `ow_in` (R157): the level and the state after it. -/
def sample (s : State) : Bool × State :=
  match s.line with
  | b :: rest => (b, { s with line := rest })
  | [] => (Config.freeSample s.draws, { s with draws := s.draws + 1 })

/-! ### Lengths of the primitives, in ticks -/

/-- P, the length of the prologue (R141). -/
def prologueLength (s : State) : Nat := if s.spuEn then config.tSpuOff else 0

/-- The length of a reset slot (R142): 960. -/
def resetLength : Nat := config.tRstl + config.tPds + config.tRstRest

/-- The length of a read slot (R143): 48. -/
def readLength : Nat := config.tRdSample + config.tRdRec

/-- The length of a write slot (R144): 64. -/
def writeLength : Nat := config.tWrLow + config.tWrSlot + config.tWrRec

/-! ### The primitives at slot level (R352) -/

/-- `Prologue()` (R141): SPUL <- 0, and P ticks pass. -/
def prologue (s : State) : State :=
  { s with spul := false, ticks := s.ticks + prologueLength s }

/-- The end of a slot (R154): the line is released, `crit` is 0; the slot joins the trace. -/
def slotDone (x : Slot) (len : Nat) (s : State) : State :=
  { s with owOut := true, crit := false, trace := s.trace ++ [x], ticks := s.ticks + len }

/-- `ResetSlot()` (R142): presence iff `ow_in` sampled 0, written to STATUS.PRESENCE. -/
def resetSlot (s : State) : Bool × State :=
  let r := sample s
  let p := !r.1
  (p, slotDone (.reset p) resetLength (setPresence p r.2))

/-- `ReadSlot()` (R143): the level sampled. -/
def readSlot (s : State) : Bool × State :=
  let r := sample s
  (r.1, slotDone (.read r.1) readLength r.2)

/-- `WriteSlot(b)` (R144): `ow_in` is not looked at. -/
def writeSlot (b : Bool) (s : State) : State := slotDone (.write b) writeLength s

/-- The read slots for bits j, j + 1, ... of a byte, n of them (R145). -/
def readBitsFrom : Nat → Nat → Byte → State → Byte × State
  | _, 0, v, s => (v, s)
  | j, n + 1, v, s =>
    let r := readSlot s
    readBitsFrom (j + 1) n (setBit v j r.1) r.2

/-- `ReadByteSeq()` (R145): eight read slots, bit 0 first. -/
def readByteSeq (s : State) : Byte × State := readBitsFrom 0 8 0 s

/-- Write slots for the bits of a list, in order. -/
def writeBits (bs : List Bool) (s : State) : State := bs.foldl (fun t b => writeSlot b t) s

/-- `WriteByteSeq(v)` (R146): eight write slots, bit 0 first. -/
def writeByteSeq (v : Byte) (s : State) : State := writeBits (wireBits v) s

/-- `WriteByteSeq` of each byte in turn (R78: index 0 first). -/
def writeByteList (vs : List Byte) (s : State) : State := vs.foldl (fun t v => writeByteSeq v t) s

/-- `BUF[k] <- ReadByteSeq()` for k, k + 1, ..., n of them (R152, R243). -/
def readBufFrom : Nat → Nat → State → State
  | _, 0, s => s
  | k, n + 1, s =>
    let r := readByteSeq s
    readBufFrom (k + 1) n (setBufByte k r.1 r.2)

/-- The bytes BUF[k], ..., BUF[k + n − 1]. -/
def bufBytes (b : Buf) (k n : Nat) : List Byte := (List.range n).map fun j => byteAt b (k + j)

/-- The eight bytes of a ROM, byte 0 first (R79). -/
def romBytes (r : Rom) : List Byte := (List.range 8).map fun k => byteAt r k

/-! ### Addressing -/

/-- `MatchRomSeq()` (R231). -/
def matchRomSeq (s : State) : State :=
  writeByteList (romBytes s.rom) (writeByteSeq config.cmdMatchRom s)

/-- `SkipRomSeq()` (R232). -/
def skipRomSeq (s : State) : State := writeByteSeq config.cmdSkipRom s

/-- `Address(bcast)` (R235) followed by the rest of the command: no presence raises BusAbsent and
the rest does not happen (R292). -/
def address (bcast : Bool) (rest : State → State) (s : State) : State :=
  let r := resetSlot (prologue s)
  if r.1 then rest (if bcast then skipRomSeq r.2 else matchRomSeq r.2)
  else raise .busAbsent 0 r.2

/-- R263: SPUL <- 1 at the end of CONVERT, WRITE_SPAD and SET_RES, if CFG.SPU_EN = 1. -/
def assertPullUp (s : State) : State := if s.spuEn then setSpul true s else s

/-! ### The host register space -/

/-- The value of the register at a word address (R71, R72): implemented bits in place, every other
bit 0; write-only and reserved addresses read 0 (R48, R74). -/
def readReg (a : Addr) (s : State) : Word :=
  let n := a.toNat
  if n = 0x01 then s.statusWord
  else if n = 0x02 then s.causeWord
  else if n = 0x03 then flagAt s.spuEn 0
  else if n = 0x04 then s.data.zeroExtend 32
  else if n = 0x05 then s.crc.zeroExtend 32
  else if n = 0x06 then s.ldisc.zeroExtend 32
  else if n = 0x07 then s.res.zeroExtend 32
  else if n = 0x08 then s.tnum
  else if n = 0x09 then s.tden.zeroExtend 32
  else if n = 0x0A then s.tc100
  else if 0x10 ≤ n ∧ n < 0x18 then (byteAt s.rom (n - 0x10)).zeroExtend 32
  else if 0x18 ≤ n ∧ n < 0x20 then (byteAt s.srom (n - 0x18)).zeroExtend 32
  else if 0x20 ≤ n ∧ n < 0x29 then (byteAt s.buf (n - 0x20)).zeroExtend 32
  else 0

/-- `HostWrite(a, v)` with BUSY = 0 and a != 0x00 (R73, R74): CFG, ROM[k] and BUF[k] take their
implemented bits; every other address ignores the write. -/
def writeReg (a : Addr) (v : Word) (s : State) : State :=
  let n := a.toNat
  if n = 0x03 then { s with spuEn := v.getLsbD 0 }
  else if 0x10 ≤ n ∧ n < 0x18 then { s with rom := setByte s.rom (n - 0x10) (v.extractLsb' 0 8) }
  else if 0x20 ≤ n ∧ n < 0x29 then setBufByte (n - 0x20) (v.extractLsb' 0 8) s
  else s

/-- `h_rdata` shows a word (R26). -/
def setRdata (v : Word) (s : State) : State := { s with hRdata := some v }

/-- `h_rdata` shows the next free word, of a read that R76 leaves unspecified (log 4). -/
def setFreeRdata (s : State) : State :=
  { s with hRdata := some (Config.freeRead s.readDraws), readDraws := s.readDraws + 1 }

/-- The port of a cycle that reads the address `a` (R26, R72, R76): the word is that of the state `s`
before the edge, it stands in the state `t` after it. While BUSY = 1 only STATUS is defined; any other
register gives a free word. -/
def showRead (a : Addr) (s t : State) : State :=
  if s.busy ∧ a ≠ 0x01 then setFreeRdata t else setRdata (readReg a s) t

/-- `HostRead(a)` with nothing else in the cycle (R72, R76). -/
def hostRead (a : Addr) (s : State) : State := showRead a s s

/-- `rst = 1` at an edge of `clk` (R21, R330): every state element takes its reset value, whatever the
engine was doing. The inputs to come, the samples to come and the records of the past are not
state elements of OWCORE and stay (log 16). -/
def resetEngine (s : State) : State :=
  { State.reset with inputs := s.inputs, line := s.line, draws := s.draws,
                     readDraws := s.readDraws, trace := s.trace, ticks := s.ticks }

end Sys2Proof.Machine
end

