-- ==== Sys2Proof/Machine/BitTransport.lean ====
section
/-! DEFINITION. The bit transport commands (40_bit_transport.md R147 to R153) at slot level. -/

namespace Sys2Proof.Machine

/-- RESET (R147): the presence is the report; no presence is BusAbsent. -/
def execReset (s : State) : Result :=
  .next (let r := resetSlot (prologue s)
    if r.1 then finish r.2 else raise .busAbsent 0 r.2)

/-- READ_BIT (R148): DATA[0] = the bit, DATA[7:1] = 0. -/
def execReadBit (s : State) : Result :=
  .next (let r := readSlot (prologue s)
    finish (setData (bitByte r.1) r.2))

/-- WRITE_BIT b (R149). -/
def execWriteBit (b : Bool) (s : State) : Result := .next (finish (writeSlot b (prologue s)))

/-- READ_BYTE (R150). -/
def execReadByte (s : State) : Result :=
  .next (let r := readByteSeq (prologue s)
    finish (setData r.1 r.2))

/-- WRITE_BYTE v (R151). -/
def execWriteByte (v : Byte) (s : State) : Result := .next (finish (writeByteSeq v (prologue s)))

/-- READ_BYTES n (R152): BUF[0..n−1]; a count outside 1 to 9 is InvalidArgument 3, before any bus
activity. -/
def execReadBytes (n : Byte) (s : State) : Result :=
  .next (if n.toNat = 0 ∨ 9 < n.toNat then raise .invalidArgument 3 s
    else finish (readBufFrom 0 n.toNat (prologue s)))

/-- WRITE_BYTES n (R153): BUF[0..n−1] go to the wire; the count as for READ_BYTES. -/
def execWriteBytes (n : Byte) (s : State) : Result :=
  .next (if n.toNat = 0 ∨ 9 < n.toNat then raise .invalidArgument 3 s
    else finish (writeByteList (bufBytes s.buf 0 n.toNat) (prologue s)))

end Sys2Proof.Machine
end

