-- ==== Sys2Proof/Machine/BusAddressing.lean ====
section
/-! DEFINITION. Bus addressing (43_bus_addressing.md R233, R234). -/

namespace Sys2Proof.Machine

/-- SELECT (R233): `Address(0)`. -/
def execSelect (s : State) : Result := .next (address false finish s)

/-- SKIP (R234): `Address(1)`. -/
def execSkip (s : State) : Result := .next (address true finish s)

end Sys2Proof.Machine
end

