-- ==== Sys2Proof/Machine/Crc8.lean ====
section
/-! DEFINITION. The CRC8 checker (41_crc8.md): the function, its table form, and the commands CRC_CLR,
CRC_UPD, CRC_BUF, CRC_ROM. -/

namespace Sys2Proof.Machine

/-- One shift of R180: toward bit 0, folding in the reflected polynomial when a 1 falls out. -/
def crcShift (a : Byte) : Byte :=
  if a.getLsbD 0 then (a >>> 1) ^^^ config.crcPoly else a >>> 1

/-- n shifts. -/
def crcShifts : Nat → Byte → Byte
  | 0, a => a
  | n + 1, a => crcShifts n (crcShift a)

/-- `upd(acc, byte)` (R180), bit by bit. -/
def crcUpdate (acc v : Byte) : Byte := crcShifts 8 (acc ^^^ v)

/-- `crc8(d)` (R183): from CRC_INIT, bytes in order, no final transformation. -/
def crc8 (d : List Byte) : Byte := d.foldl crcUpdate config.crcInit

/-- table1 of R181, indexed by the low nibble. -/
def crcTable1 : List Byte :=
  [0x00, 0x5E, 0xBC, 0xE2, 0x61, 0x3F, 0xDD, 0x83, 0xC2, 0x9C, 0x7E, 0x20, 0xA3, 0xFD, 0x1F, 0x41]

/-- table2 of R181, indexed by the high nibble. -/
def crcTable2 : List Byte :=
  [0x00, 0x9D, 0x23, 0xBE, 0x46, 0xDB, 0x65, 0xF8, 0x8C, 0x11, 0xAF, 0x32, 0xCA, 0x57, 0xE9, 0x74]

/-- The table step of R182, D0's own form: `table1[a[3:0]] ^ table2[a[7:4]]` with a = acc ^ byte. -/
def crcUpdateTable (acc v : Byte) : Byte :=
  let a := acc ^^^ v
  crcTable1.getD (a.extractLsb' 0 4).toNat 0 ^^^ crcTable2.getD (a.extractLsb' 4 4).toNat 0

/-- CRC_CLR (R185): `CRC <- 0x00`. -/
def execCrcClr (s : State) : Result := .next (finish (setCrc 0x00 s))

/-- CRC_UPD v (R186): `CRC <- upd(CRC, v)`. -/
def execCrcUpd (v : Byte) (s : State) : Result :=
  .next (finish (setCrc (crcUpdate s.crc v) s))

/-- CRC_BUF n (R187): `CRC <- crc8(BUF[0..n−1])`, from CRC_INIT; a count outside 1 to 9 is
InvalidArgument 3 (R101). -/
def execCrcBuf (n : Byte) (s : State) : Result :=
  .next (if n.toNat = 0 ∨ 9 < n.toNat then raise .invalidArgument 3 s
    else finish (setCrc (crc8 (bufBytes s.buf 0 n.toNat)) s))

/-- CRC_ROM S (R188): over ROM or SROM; never raises ChecksumFault. -/
def execCrcRom (srom : Bool) (s : State) : Result :=
  .next (finish (setCrc (crc8 (romBytes (if srom then s.srom else s.rom))) s))

end Sys2Proof.Machine
end

