-- ==== Sys2Proof/Machine/Ds18x20.lean ====
section
/-! DEFINITION. The DS18x20 exchanges and the scratchpad decoder (44_ds18x20.md). -/

namespace Sys2Proof.Machine

/-- CONVERT BCAST (R241). -/
def execConvert (bcast : Bool) (s : State) : Result :=
  .next (address bcast (fun t => finish (assertPullUp (writeByteSeq config.cmdConvertT t))) s)

/-- The check at the end of READ_SPAD (R243): CRC takes the residue of the nine bytes; a nonzero one is
ChecksumFault. -/
def checkScratchpad (s : State) : State :=
  let c := crc8 (bufBytes s.buf 0 9)
  let t := setCrc c s
  if c = 0 then finish t else raise .checksumFault 0 t

/-- READ_SPAD (R243). -/
def execReadSpad (s : State) : Result :=
  .next (address false
    (fun t => checkScratchpad (readBufFrom 0 9 (writeByteSeq config.cmdReadScratch t)))
    (setTvalid false s))

/-- The exchange of WRITE_SPAD (R245): BUF[2], BUF[3], BUF[4] go to the device. -/
def writeScratchpad (s : State) : State :=
  address false (fun t => finish (assertPullUp
    (writeByteList (bufBytes t.buf 2 3) (writeByteSeq config.cmdWriteScratch t)))) s

/-- WRITE_SPAD (R245). -/
def execWriteSpad (s : State) : Result := .next (writeScratchpad s)

/-- R253: raw = {BUF[1], BUF[0]} read as 16-bit two's complement, over 16. -/
def decodeExtended (lsb msb : Byte) : Int × Nat := ((msb ++ lsb).toInt, 16)

/-- The integer part of R254: any nonzero BUF[1] is negative. -/
def legacyInteger (lsb msb : Byte) : Int :=
  if msb ≠ 0 then (((lsb >>> 1) ||| 0x80).toNat : Int) - 256 else ((lsb >>> 1).toNat : Int)

/-- R254: `n = (4·ip − 1)·CPD + 4·(CPD − CR)`, `d = 4·CPD`. -/
def decodeLegacy (lsb msb cr cpd : Byte) : Int × Nat :=
  ((4 * legacyInteger lsb msb - 1) * (cpd.toNat : Int) + 4 * ((cpd.toNat : Int) - (cr.toNat : Int)),
    4 * cpd.toNat)

/-- R255: `floor(100·n / d)`, toward minus infinity. -/
def hundredths (n : Int) (d : Nat) : Int := Int.fdiv (100 * n) (d : Int)

/-- The reading of DECODE (R251): TNUM, TDEN, TC100 and TVALID = 1. -/
def setReading (r : Int × Nat) (s : State) : State :=
  { s with
    tnum := BitVec.ofInt 32 r.1
    tden := BitVec.ofNat 16 r.2
    tc100 := BitVec.ofInt 32 (hundredths r.1 r.2)
    tvalid := true }

/-- DECODE (R251): TVALID is cleared first; an unknown family is UnsupportedFamily (R295), a Legacy9Bit
scratchpad with BUF[7] = 0 is InvalidArgument 6 (R257), in that order (R302). -/
def execDecodeTemp (s : State) : Result :=
  .next (let t := setTvalid false s
    match family (byteAt s.rom 0) with
    | .unsupported => raise .unsupportedFamily 0 t
    | .extended12 => finish (setReading (decodeExtended (byteAt s.buf 0) (byteAt s.buf 1)) t)
    | .legacy9 =>
      if byteAt s.buf 7 = 0 then raise .invalidArgument 6 t
      else finish (setReading
        (decodeLegacy (byteAt s.buf 0) (byteAt s.buf 1) (byteAt s.buf 6) (byteAt s.buf 7)) t))

/-- GET_RES (R258): `RES <- ((BUF[4] >> 5) & 3) + 9`. -/
def execGetRes (s : State) : Result := .next (finish { s with res := resolutionOf (byteAt s.buf 4) })

/-- SET_RES bits (R259): BUF[4] takes the configuration byte before the exchange; a resolution outside
9 to 12 is InvalidArgument 4 and nothing else changes. -/
def execSetRes (bits : Byte) (s : State) : Result :=
  .next (if bits.toNat < 9 ∨ 12 < bits.toNat then raise .invalidArgument 4 s
    else writeScratchpad (setBufByte 4 (configByte bits) s))

/-- POWERMODE BCAST (R262): PMODE takes the bit of one read slot. -/
def execPowerMode (bcast : Bool) (s : State) : Result :=
  .next (address bcast (fun t =>
    let r := readSlot (writeByteSeq config.cmdReadPower t)
    finish (setPmode r.1 r.2)) s)

end Sys2Proof.Machine
end

