-- ==== Sys2Proof/Machine/RomSearch.lean ====
section
/-! DEFINITION. The ROM search (42_rom_search.md): SEARCH_INIT, SEARCH_NEXT, ROM_TAKE. -/

namespace Sys2Proof.Machine

/-- SEARCH_INIT (R206). -/
def execSearchInit (s : State) : Result :=
  .next (finish { s with srom := Vector.replicate 8 0x00, ldisc := config.ldiscInit, found := false })

/-- Step 4 of R207: SROM and LDISC take the working copies, together and only here (R211). -/
def commitSearch (s : State) : State := { s with srom := s.wrom, ldisc := s.ndisc, found := true }

/-- The bit chosen at the position POS from IDB and CMPB that are not both 1 (R203, R204). -/
def chosenBit (s : State) : Bool :=
  if !s.idb && !s.cmpb then takesBranchOne s.srom s.ldisc s.pos else s.idb

/-- R204, R205: WROM records the chosen bit, and NDISC a collision resolved by branch 1. -/
def recordChoice (s : State) : State :=
  { s with
    wrom := setRomBit s.wrom s.pos.toNat (chosenBit s)
    ndisc := if !s.idb && !s.cmpb && chosenBit s then s.pos else s.ndisc }

/-- POS takes a position (R207 `for POS = 64 down to 1`). -/
def setPosition (n : Nat) (s : State) : State := { s with pos := BitVec.ofNat 7 n }

/-- `IDB <- b` (R207). -/
def setIdb (b : Bool) (s : State) : State := { s with idb := b }

/-- `CMPB <- b` (R207). -/
def setCmpb (b : Bool) (s : State) : State := { s with cmpb := b }

/-- The working state at the start of the loop (R207): `WROM[0..7] <- 0x00 ; NDISC <- 0`. -/
def clearWork (s : State) : State := { s with wrom := Vector.replicate 8 0x00, ndisc := 0 }

/-- The loop of R207 over the positions n, n − 1, ..., 1, and the end of the command. -/
def searchFrom : Nat → State → State
  | 0, s => finish (commitSearch s)
  | n + 1, s =>
    let r1 := readSlot (setPosition (n + 1) s)
    let r2 := readSlot (setIdb r1.1 r1.2)
    let t := setCmpb r2.1 r2.2
    if t.idb && t.cmpb then raise .busCollisionFault t.pos t
    else searchFrom n (recordChoice (writeSlot (chosenBit t) t))

/-- SEARCH_NEXT (R207): refused with LDISC = 0 (R212); no presence ends the scan (R209); both bits 1
at a position is BusCollisionFault with SROM and LDISC as before (R208, R210). -/
def execSearchNext (s : State) : Result :=
  .next (if s.ldisc = 0 then raise .invalidArgument 5 s
    else
      let r := resetSlot (prologue (setFound false s))
      if r.1 then searchFrom 64 (clearWork (writeByteSeq config.cmdSearchRom r.2))
      else raise .busAbsent 0 (setLdisc 0 r.2))

/-- ROM_TAKE (R213): `ROM[0..7] <- SROM[0..7]`, whatever FOUND is. -/
def execRomTake (s : State) : Result := .next (finish { s with rom := s.srom })

end Sys2Proof.Machine
end

