-- ==== Sys2Proof/Machine/System.lean ====
section
/-! DEFINITION. NOP (45_system.md R280). -/

namespace Sys2Proof.Machine

/-- NOP (R280): `CAUSE <- (OK, 0)` and nothing else. -/
def execNop (s : State) : Result := .next (finish s)

end Sys2Proof.Machine
end

