-- ==== Sys2Proof/Machine/Dispatch.lean ====
section
/-! DEFINITION. One arm per command: its meaning at slot level, from its first line to its end (R289). -/

namespace Sys2Proof.Machine

def exec (i : Instr) (s : State) : Host.Outcome State Fault Refusal :=
  match i with
  | .nop => Sys2Proof.Machine.execNop s
  | .reset => Sys2Proof.Machine.execReset s
  | .readBit => Sys2Proof.Machine.execReadBit s
  | .writeBit bit => Sys2Proof.Machine.execWriteBit bit s
  | .readByte => Sys2Proof.Machine.execReadByte s
  | .writeByte imm => Sys2Proof.Machine.execWriteByte imm s
  | .readBytes n => Sys2Proof.Machine.execReadBytes n s
  | .writeBytes n => Sys2Proof.Machine.execWriteBytes n s
  | .crcClr => Sys2Proof.Machine.execCrcClr s
  | .crcUpd imm => Sys2Proof.Machine.execCrcUpd imm s
  | .crcBuf n => Sys2Proof.Machine.execCrcBuf n s
  | .crcRom srom => Sys2Proof.Machine.execCrcRom srom s
  | .searchInit => Sys2Proof.Machine.execSearchInit s
  | .searchNext => Sys2Proof.Machine.execSearchNext s
  | .romTake => Sys2Proof.Machine.execRomTake s
  | .select => Sys2Proof.Machine.execSelect s
  | .skip => Sys2Proof.Machine.execSkip s
  | .convert bcast => Sys2Proof.Machine.execConvert bcast s
  | .readSpad => Sys2Proof.Machine.execReadSpad s
  | .writeSpad => Sys2Proof.Machine.execWriteSpad s
  | .decodeTemp => Sys2Proof.Machine.execDecodeTemp s
  | .getRes => Sys2Proof.Machine.execGetRes s
  | .setRes bits => Sys2Proof.Machine.execSetRes bits s
  | .powerMode bcast => Sys2Proof.Machine.execPowerMode bcast s

end Sys2Proof.Machine
end

