-- ==== Sys2Proof/WellFormed.lean ====
section
/-! DEFINITION. Which terms of `Instr` are commands: the operand ranges of 30_encoding.md R101. -/

namespace Sys2Proof

/-- Format C: a count is 1 to 9 (R101). -/
def countOk (n : Byte) : Bool := decide (1 ≤ n.toNat) && decide (n.toNat ≤ 9)

/-- Format B: a resolution is 9 to 12 (R101). -/
def resolutionOk (b : Byte) : Bool := decide (9 ≤ b.toNat) && decide (b.toNat ≤ 12)

/-- The operand is one that the format of the command admits (R101). -/
def Instr.wf : Instr → Bool
  | .nop => true
  | .reset => true
  | .readBit => true
  | .writeBit _ => true
  | .readByte => true
  | .writeByte _ => true
  | .readBytes n => countOk n
  | .writeBytes n => countOk n
  | .crcClr => true
  | .crcUpd _ => true
  | .crcBuf n => countOk n
  | .crcRom _ => true
  | .searchInit => true
  | .searchNext => true
  | .romTake => true
  | .select => true
  | .skip => true
  | .convert _ => true
  | .readSpad => true
  | .writeSpad => true
  | .decodeTemp => true
  | .getRes => true
  | .setRes b => resolutionOk b
  | .powerMode _ => true

end Sys2Proof
end

