-- ==== Sys2Proof/Decode.lean ====
section
/-! DEFINITION. The command word (30_encoding.md R100 to R106): the opcode map, the decoder, total on
every 32-bit word and rejecting by name, and the encoder. -/

namespace Sys2Proof

/-- Why a word is no command, in the order of R104. -/
inductive DecodeError where
  /-- R104 (1): `w[31:16] != 0`. -/
  | highBits
  /-- R104 (2): OPC is not one of the 24 values. -/
  | undefinedOpcode
  /-- R104 (3): a "must be 0" bit of ARG is 1. -/
  | reservedArg
  /-- R104 (4): a count outside 1 to 9. -/
  | badCount
  /-- R104 (5): a resolution outside 9 to 12. -/
  | badResolution
  deriving DecidableEq, Repr

/-- The INFO value of each rejection (R104, R291). -/
def DecodeError.info : DecodeError → Pos
  | .highBits => 2
  | .undefinedOpcode => 1
  | .reservedArg => 2
  | .badCount => 3
  | .badResolution => 4

/-- A format (R101) with the command it makes of its operand. -/
inductive Shape where
  /-- N: no operand, ARG must be 0. -/
  | N (i : Instr)
  /-- F: one-bit operand ARG[0], ARG[7:1] must be 0. -/
  | F (mk : Bool → Instr)
  /-- I: byte operand. -/
  | I (mk : Byte → Instr)
  /-- C: byte count 1 to 9. -/
  | C (mk : Byte → Instr)
  /-- B: resolution 9 to 12. -/
  | B (mk : Byte → Instr)

/-- One row of the opcode map R103. -/
structure OpRow where
  opc : Byte
  mnemonic : String
  shape : Shape

def opcodeMapTransport : List OpRow :=
  [ ⟨0x00, "NOP", .N .nop⟩
  , ⟨0x01, "RESET", .N .reset⟩
  , ⟨0x02, "READ_BIT", .N .readBit⟩
  , ⟨0x03, "WRITE_BIT", .F .writeBit⟩
  , ⟨0x04, "READ_BYTE", .N .readByte⟩
  , ⟨0x05, "WRITE_BYTE", .I .writeByte⟩
  , ⟨0x06, "READ_BYTES", .C .readBytes⟩
  , ⟨0x07, "WRITE_BYTES", .C .writeBytes⟩ ]

def opcodeMapCrcSearchBus : List OpRow :=
  [ ⟨0x10, "CRC_CLR", .N .crcClr⟩
  , ⟨0x11, "CRC_UPD", .I .crcUpd⟩
  , ⟨0x12, "CRC_BUF", .C .crcBuf⟩
  , ⟨0x13, "CRC_ROM", .F .crcRom⟩
  , ⟨0x20, "SEARCH_INIT", .N .searchInit⟩
  , ⟨0x21, "SEARCH_NEXT", .N .searchNext⟩
  , ⟨0x22, "ROM_TAKE", .N .romTake⟩
  , ⟨0x30, "SELECT", .N .select⟩
  , ⟨0x31, "SKIP", .N .skip⟩ ]

def opcodeMapDs18x20 : List OpRow :=
  [ ⟨0x40, "CONVERT", .F .convert⟩
  , ⟨0x41, "READ_SPAD", .N .readSpad⟩
  , ⟨0x42, "WRITE_SPAD", .N .writeSpad⟩
  , ⟨0x43, "DECODE", .N .decodeTemp⟩
  , ⟨0x44, "GET_RES", .N .getRes⟩
  , ⟨0x45, "SET_RES", .B .setRes⟩
  , ⟨0x46, "POWERMODE", .F .powerMode⟩ ]

/-- The opcode map R103, 24 rows. -/
def opcodeMap : List OpRow := opcodeMapTransport ++ (opcodeMapCrcSearchBus ++ opcodeMapDs18x20)

/-- The row of an opcode, if it is one of the 24. -/
def opRow? (opc : Byte) : Option OpRow := opcodeMap.find? (fun r => r.opc == opc)

/-- R104 (3) to (6): the operand check of the opcode's format. -/
def Shape.operand (arg : Byte) : Shape → Except DecodeError Instr
  | .N i => if arg = 0 then .ok i else .error .reservedArg
  | .F mk => if arg.extractLsb' 1 7 = 0 then .ok (mk (arg.getLsbD 0)) else .error .reservedArg
  | .I mk => .ok (mk arg)
  | .C mk => if countOk arg then .ok (mk arg) else .error .badCount
  | .B mk => if resolutionOk arg then .ok (mk arg) else .error .badResolution

/-- OPC, bits 7:0 of a command word (R100). -/
def wordOpc (w : Word) : Byte := w.extractLsb' 0 8

/-- ARG, bits 15:8 of a command word (R100). -/
def wordArg (w : Word) : Byte := w.extractLsb' 8 8

/-- R104: the decoder, in the rule's order. -/
def decode (w : Word) : Except DecodeError Instr :=
  if w.extractLsb' 16 16 ≠ 0 then .error .highBits
  else
    match opRow? (wordOpc w) with
    | none => .error .undefinedOpcode
    | some r => r.shape.operand (wordArg w)

/-- The `mask` of R103: the bits of a word that select the command, by format. -/
def Shape.mask : Shape → Word
  | .N _ => 0xFFFFFFFF
  | .F _ => 0xFFFFFEFF
  | .I _ => 0xFFFF00FF
  | .C _ => 0xFFFF00FF
  | .B _ => 0xFFFF00FF

/-- The `format` of R103: its letter (R101). -/
def Shape.format : Shape → String
  | .N _ => "N"
  | .F _ => "F"
  | .I _ => "I"
  | .C _ => "C"
  | .B _ => "B"

/-- The `match` of R103: the opcode, every other bit 0. -/
def OpRow.matchWord (r : OpRow) : Word := r.opc.zeroExtend 32

/-- `w & mask == match` (R103). -/
def OpRow.selects (r : OpRow) (w : Word) : Bool := (w &&& r.shape.mask) == r.matchWord

/-- The opcode of a command (R103). -/
def Instr.opc : Instr → Byte
  | .nop => 0x00
  | .reset => 0x01
  | .readBit => 0x02
  | .writeBit _ => 0x03
  | .readByte => 0x04
  | .writeByte _ => 0x05
  | .readBytes _ => 0x06
  | .writeBytes _ => 0x07
  | .crcClr => 0x10
  | .crcUpd _ => 0x11
  | .crcBuf _ => 0x12
  | .crcRom _ => 0x13
  | .searchInit => 0x20
  | .searchNext => 0x21
  | .romTake => 0x22
  | .select => 0x30
  | .skip => 0x31
  | .convert _ => 0x40
  | .readSpad => 0x41
  | .writeSpad => 0x42
  | .decodeTemp => 0x43
  | .getRes => 0x44
  | .setRes _ => 0x45
  | .powerMode _ => 0x46

/-- A one-bit operand as ARG (R101, format F). -/
def flagArg (b : Bool) : Byte := if b then 1 else 0

/-- The operand of a command as ARG (R101, R102). -/
def Instr.arg : Instr → Byte
  | .nop => 0
  | .reset => 0
  | .readBit => 0
  | .writeBit b => flagArg b
  | .readByte => 0
  | .writeByte v => v
  | .readBytes n => n
  | .writeBytes n => n
  | .crcClr => 0
  | .crcUpd v => v
  | .crcBuf n => n
  | .crcRom b => flagArg b
  | .searchInit => 0
  | .searchNext => 0
  | .romTake => 0
  | .select => 0
  | .skip => 0
  | .convert b => flagArg b
  | .readSpad => 0
  | .writeSpad => 0
  | .decodeTemp => 0
  | .getRes => 0
  | .setRes b => b
  | .powerMode b => flagArg b

/-- The command word with opcode `opc` and argument `arg` (R100), ZERO = 0: `OPC | (ARG << 8)`. -/
def commandWord (opc arg : Byte) : Word := opc.zeroExtend 32 ||| (arg.zeroExtend 32 <<< 8)

/-- R112: the encoding of a command. -/
def encode (i : Instr) : Word := commandWord i.opc i.arg

/-- What this decoder reads from an instruction of `nbits` bits whose bits are `w`. Every command is
one 32-bit word (R106), written to CMD whole, so a number of more than 32 bits is no command word. -/
def decodeTableWord (nbits w : Nat) : Option Instr :=
  if nbits ≤ 32 ∧ w < 2 ^ 32 then (decode (BitVec.ofNat 32 w)).toOption else none

end Sys2Proof
end

