-- ==== Sys2Proof/Machine/Sequencer.lean ====
section
/-! DEFINITION. The tick level: a bus-active command as a list of primitives (40_bit_transport.md R140),
run one `us_tick` pulse at a time over the boundaries of R141 to R144 by the sequencer state of
10_state.md R49. `exec` is the same command at slot level (70_reset_and_hazards.md R352). -/

namespace Sys2Proof.Machine

/-- A primitive of a bus-active command (R13), with multi-byte runs as one primitive over BYTEIX. -/
inductive Prim where
  /-- `Prologue()` (R141). -/
  | prologue
  /-- `ResetSlot()` (R142). -/
  | reset
  /-- One `ReadSlot()`: READ_BIT and POWERMODE. -/
  | readBit
  /-- One `WriteSlot(b)`: WRITE_BIT. -/
  | writeBit (b : Bool)
  /-- `WriteByteSeq(v)`. -/
  | sendByte (v : Byte)
  /-- `WriteByteSeq(ROM[k])`, k = 0 to 7. -/
  | sendRom
  /-- `WriteByteSeq(BUF[first + k])`, k = 0 to n − 1. -/
  | sendBuf (first n : Nat)
  /-- `DATA <- ReadByteSeq()`. -/
  | recvData
  /-- `BUF[k] <- ReadByteSeq()`, k = 0 to n − 1. -/
  | recvBuf (n : Nat)
  /-- `IDB <- ReadSlot()` at the position POS. -/
  | searchId
  /-- `CMPB <- ReadSlot()` at the position POS. -/
  | searchComp
  /-- `WriteSlot(b)` of the chosen bit at the position POS. -/
  | searchWrite
  deriving DecidableEq, Repr

/-- The primitives of `Address(bcast)` (R235). -/
def addressPrims (bcast : Bool) : List Prim :=
  [.prologue, .reset] ++
    (if bcast then [.sendByte config.cmdSkipRom] else [.sendByte config.cmdMatchRom, .sendRom])

/-- The sequence of primitives of each command; empty for a non-bus command. The last three of
SEARCH_NEXT are repeated for POS = 64 down to 1. -/
def prims : Instr → List Prim
  | .nop => []
  | .reset => [.prologue, .reset]
  | .readBit => [.prologue, .readBit]
  | .writeBit b => [.prologue, .writeBit b]
  | .readByte => [.prologue, .recvData]
  | .writeByte v => [.prologue, .sendByte v]
  | .readBytes n => [.prologue, .recvBuf n.toNat]
  | .writeBytes n => [.prologue, .sendBuf 0 n.toNat]
  | .crcClr => []
  | .crcUpd _ => []
  | .crcBuf _ => []
  | .crcRom _ => []
  | .searchInit => []
  | .searchNext =>
    [.prologue, .reset, .sendByte config.cmdSearchRom, .searchId, .searchComp, .searchWrite]
  | .romTake => []
  | .select => addressPrims false
  | .skip => addressPrims true
  | .convert b => addressPrims b ++ [.sendByte config.cmdConvertT]
  | .readSpad => addressPrims false ++ [.sendByte config.cmdReadScratch, .recvBuf 9]
  | .writeSpad => addressPrims false ++ [.sendByte config.cmdWriteScratch, .sendBuf 2 3]
  | .decodeTemp => []
  | .getRes => []
  | .setRes _ => addressPrims false ++ [.sendByte config.cmdWriteScratch, .sendBuf 2 3]
  | .powerMode b => addressPrims b ++ [.sendByte config.cmdReadPower, .readBit]

/-- Bus-active (R103): the command calls `Prologue()`. -/
def busActive (i : Instr) : Bool := !(prims i).isEmpty

/-- The number of bytes of a primitive, the range of BYTEIX. -/
def Prim.bytes : Prim → Nat
  | .prologue => 0
  | .reset => 0
  | .readBit => 0
  | .writeBit _ => 0
  | .sendByte _ => 1
  | .sendRom => 8
  | .sendBuf _ n => n
  | .recvData => 1
  | .recvBuf n => n
  | .searchId => 0
  | .searchComp => 0
  | .searchWrite => 0

/-- The byte that SHREG takes when byte k of the primitive begins: the byte to send, or 0 for a byte
to be assembled (R145 `v <- 0`). -/
def Prim.loadByte (p : Prim) (k : Nat) (s : State) : Byte :=
  match p with
  | .prologue => 0
  | .reset => 0
  | .readBit => 0
  | .writeBit _ => 0
  | .sendByte v => v
  | .sendRom => byteAt s.rom k
  | .sendBuf first _ => byteAt s.buf (first + k)
  | .recvData => 0
  | .recvBuf _ => 0
  | .searchId => 0
  | .searchComp => 0
  | .searchWrite => 0

/-- What runs over the boundaries: the gap of the prologue, or one of the three slots. -/
inductive SlotKind where
  | gap
  | reset
  | read
  | write (b : Bool)
  deriving DecidableEq, Repr

/-- The slot a primitive is in. -/
def Prim.slotKind (p : Prim) (s : State) : SlotKind :=
  match p with
  | .prologue => .gap
  | .reset => .reset
  | .readBit => .read
  | .writeBit b => .write b
  | .sendByte _ => .write (s.shreg.getLsbD s.bitIx)
  | .sendRom => .write (s.shreg.getLsbD s.bitIx)
  | .sendBuf _ _ => .write (s.shreg.getLsbD s.bitIx)
  | .recvData => .read
  | .recvBuf _ => .read
  | .searchId => .read
  | .searchComp => .read
  | .searchWrite => .write (chosenBit s)

/-- The length in ticks (R141 to R144). -/
def SlotKind.length (k : SlotKind) (s : State) : Nat :=
  match k with
  | .gap => prologueLength s
  | .reset => resetLength
  | .read => readLength
  | .write _ => writeLength

/-- STEP <- k (R49). -/
def setStepIx (k : Nat) (s : State) : State := { s with stepIx := k }

/-- TCNT <- n (R49). -/
def setTcnt (n : Nat) (s : State) : State := { s with tcnt := n }

/-- SHREG <- v (R49). -/
def setShreg (v : Byte) (s : State) : State := { s with shreg := v }

/-- The next bit of a byte: BITIX + 1, at boundary 0 of its slot. -/
def nextBit (s : State) : State := { s with bitIx := s.bitIx + 1, tcnt := 0 }

/-- A slot that has ended goes to the trace, its length to the tick count (log 7). -/
def recordSlot (xs : List Slot) (len : Nat) (s : State) : State :=
  { s with trace := s.trace ++ xs, ticks := s.ticks + len }

/-- Where a read slot puts the level it sampled: IDB, CMPB, or the bit BITIX of SHREG. -/
def Prim.storeBit (p : Prim) (b : Bool) (s : State) : State :=
  match p with
  | .searchId => setIdb b s
  | .searchComp => setCmpb b s
  | _ => setShreg (setBit s.shreg s.bitIx b) s

/-- An action of the boundary b, at the boundary t. -/
def atBoundary (b t : Nat) (f : State → State) (s : State) : State := if t = b then f s else s

/-- The presence sample of a reset slot (R142): `STATUS.PRESENCE <- (ow_in == 0)`, `crit <- 0`. -/
def takePresence (s : State) : State :=
  let r := sample s
  setPresence (!r.1) (setCrit false r.2)

/-- The sample of a read slot (R143): the level goes where the primitive puts it, `crit <- 0`. -/
def Prim.takeBit (p : Prim) (s : State) : State :=
  let r := sample s
  p.storeBit r.1 (setCrit false r.2)

/-- The actions of the boundary t of a primitive, in the order of the tables of R141 to R144. Boundaries
that the parameters let coincide (R161), the end boundary with the last action among them, act in that
order. -/
def boundaryAction (p : Prim) (t : Nat) (s : State) : State :=
  match p.slotKind s with
  | .gap => atBoundary 0 t (setSpul false) s
  | .reset =>
    atBoundary (config.tRstl + config.tPds) t takePresence
      (atBoundary config.tRstl t (fun u => setOwOut true (setCrit true u))
        (atBoundary 0 t (setOwOut false) s))
  | .read =>
    atBoundary config.tRdSample t p.takeBit
      (atBoundary config.tRdLow t (setOwOut true)
        (atBoundary 0 t (fun u => setOwOut false (setCrit true u)) s))
  | .write b =>
    atBoundary (config.tWrLow + config.tWrSlot) t (fun u => setOwOut true (setCrit false u))
      (atBoundary config.tWrLow t (setOwOut b)
        (atBoundary 0 t (fun u => setOwOut false (setCrit true u)) s))

/-- The command that OPC and ARG hold (R49). -/
def running (s : State) : Option Instr := (decode (commandWord s.opc s.arg)).toOption

/-- The primitive that STEP points at. -/
def currentPrim (s : State) : Option Prim :=
  match running s with
  | none => none
  | some i => (prims i)[s.stepIx]?

/-- The primitive `p` begins its byte k: BITIX, TCNT <- 0, SHREG loaded. -/
def beginByte (p : Prim) (k : Nat) (s : State) : State :=
  { s with byteIx := k, bitIx := 0, tcnt := 0, shreg := p.loadByte k s }

/-- What a command does when its last primitive has ended: its last lines (R147 to R262). -/
def complete (i : Instr) (s : State) : State :=
  match i with
  | .reset => if s.presence then finish s else raise .busAbsent 0 s
  | .convert _ => finish (assertPullUp s)
  | .writeSpad => finish (assertPullUp s)
  | .setRes _ => finish (assertPullUp s)
  | .readSpad => checkScratchpad s
  | .searchNext => finish (commitSearch s)
  | _ => finish s

/-- Go to the primitive at index k of the command, or complete the command if there is none. -/
def goTo (i : Instr) (k : Nat) (s : State) : State :=
  match (prims i)[k]? with
  | none => complete i s
  | some q => beginByte q 0 (setStepIx k s)

/-- The end of a whole primitive, its results in place: go on to the next one. Entering the search
loop sets WROM, NDISC and POS (R207); leaving its last position ends it. -/
def nextPrim (i : Instr) (p : Prim) (s : State) : State :=
  match p with
  | .reset =>
    if s.presence || decide (i = .reset) then goTo i (s.stepIx + 1) s
    else if i = .searchNext then raise .busAbsent 0 (setLdisc 0 s)
    else raise .busAbsent 0 s
  | .readBit =>
    if i = .readBit then goTo i (s.stepIx + 1) (setData (bitByte (s.shreg.getLsbD 0)) s)
    else goTo i (s.stepIx + 1) (setPmode (s.shreg.getLsbD 0) s)
  | .sendByte _ =>
    if i = .searchNext then
      goTo i (s.stepIx + 1) (setPosition 64 (clearWork s))
    else goTo i (s.stepIx + 1) s
  | .searchComp =>
    if s.idb && s.cmpb then raise .busCollisionFault s.pos s else goTo i (s.stepIx + 1) s
  | .searchWrite =>
    let t := recordChoice s
    if t.pos.toNat ≤ 1 then goTo i (s.stepIx + 1) t
    else goTo i (s.stepIx - 2) (setPosition (t.pos.toNat - 1) t)
  | _ => goTo i (s.stepIx + 1) s

/-- The byte that has just been assembled goes where the primitive puts it. -/
def storeByte (p : Prim) (s : State) : State :=
  match p with
  | .recvData => setData s.shreg s
  | .recvBuf _ => setBufByte s.byteIx s.shreg s
  | _ => s

/-- The slot that has just ended, as the trace records it. -/
def endedSlot (p : Prim) (s : State) : List Slot :=
  match p.slotKind s with
  | .gap => []
  | .reset => [.reset s.presence]
  | .write b => [.write b]
  | .read =>
    match p with
    | .searchId => [.read s.idb]
    | .searchComp => [.read s.cmpb]
    | _ => [.read (s.shreg.getLsbD s.bitIx)]

/-- The end boundary of a slot: the trace and the tick count grow, then the next bit, the next byte or
the next primitive begins, or the command ends. -/
def endSlot (i : Instr) (p : Prim) (s : State) : State :=
  let t := recordSlot (endedSlot p s) ((p.slotKind s).length s) s
  if p.bytes = 0 then nextPrim i p t
  else if t.bitIx < 7 then nextBit t
  else
    let u := storeByte p t
    if u.byteIx + 1 < p.bytes then beginByte p (u.byteIx + 1) u else nextPrim i p u

/-- The boundary TCNT of the running primitive. -/
def runBoundary (p : Prim) (s : State) : State :=
  setTcnt (s.tcnt + 1) (boundaryAction p s.tcnt s)

/-- One pulse, over at most n primitives: the pulse is boundary TCNT of the running primitive; if that is
its end boundary, the slot ends there and the same pulse is boundary 0 of what comes next (R140: "each
primitive starts on the boundary its predecessor ends"). -/
def pulse : Nat → State → State
  | 0, s => s
  | n + 1, s =>
    match running s with
    | none => s
    | some i =>
      match (prims i)[s.stepIx]? with
      | none => s
      | some p =>
        let t := runBoundary p s
        if s.tcnt < (p.slotKind s).length s then t
        else
          let u := endSlot i p t
          if u.busy then pulse n u else u

/-- One `us_tick` pulse while a bus-active command runs (R14, R140). Under R161 only the prologue and the
reset slot can have length 0, and a command has one of each, first: a pulse meets at most three
primitives. -/
def usTick (s : State) : State := pulse 3 s

/-- n pulses. -/
def usTicks : Nat → State → State
  | 0, s => s
  | n + 1, s => usTicks n (usTick s)

/-- The lines of a bus-active command before its `Prologue()`: TVALID <- 0 (READ_SPAD, R44), FOUND <- 0
(SEARCH_NEXT, R40), BUF[4] (SET_RES, R259), in the `clk` cycle of the write (R281). -/
def beforePrologue (i : Instr) (s : State) : State :=
  match i with
  | .readSpad => setTvalid false s
  | .searchNext => setFound false s
  | .setRes bits => setBufByte 4 (configByte bits) s
  | _ => s

/-- The start of a bus-active command at clk level (R281): the next `us_tick` pulse is boundary 0 of its
prologue (R140). -/
def launch (i : Instr) (w : Word) (s : State) : State :=
  goTo i 0 (beforePrologue i (accept w s))

/-- The acceptance check of R281: SEARCH_NEXT with LDISC = 0 is refused. -/
def refusedAtAcceptance (i : Instr) (s : State) : Bool := decide (i = .searchNext) && s.ldisc == 0

end Sys2Proof.Machine
end

