-- ==== Sys2Proof/Machine/HostPort.lean ====
section
/-! DEFINITION. The host port: what a host access does (20_memory.md R72 to R76, 45_system.md R281, R289),
and one edge of `clk` (10_state.md R21, R22, R26). -/

namespace Sys2Proof.Machine

/-- `HostWrite(0x00, w)` with BUSY = 0 at slot level (R281, R289): the word is taken and decoded; an
invalid one ends with InvalidArgument (R296), a command runs to its end. -/
def command (w : Word) (s : State) : Result :=
  match decode w with
  | .error e => .next (raise .invalidArgument e.info (accept w s))
  | .ok i => exec i (accept w s)

/-- One host access at slot level (R289). A write while BUSY = 1 is dropped (R75). -/
def hostAccess (a : Access) (s : State) : Result :=
  match a with
  | .read a => .next (hostRead a s)
  | .write a v =>
    if s.busy then .next s
    else if a = 0x00 then command v s
    else .next (writeReg a v s)

/-- The waiting atomic command and its cycles left (log 5). -/
def setHold (h : Option (Word × Nat)) (s : State) : State := { s with hold := h }

/-- A non-bus command, or a refused one, written at clk level: it keeps BUSY for N_CYC cycles and is
atomic (R283). Its effects are taken at the end of them (log 5). -/
def startAtomic (w : Word) (s : State) : Result :=
  if Config.nCyc = 0 then command w s
  else .next (setHold (some (w, Config.nCyc)) (accept w s))

/-- `HostWrite(0x00, w)` with BUSY = 0 at clk level (R281). -/
def startCommand (w : Word) (s : State) : Result :=
  match decode w with
  | .error _ => startAtomic w s
  | .ok i =>
    if busActive i && !refusedAtAcceptance i s then .next (launch i w s)
    else startAtomic w s

/-- What the engine itself does at an edge with BUSY = 1: the N_CYC cycles of an atomic command pass,
or a `us_tick` pulse is the next boundary of a bus-active one. -/
def engineEdge (usTickPulse : Bool) (s : State) : Result :=
  match s.hold with
  | some (w, n) =>
    if n ≤ 1 then command w s else .next (setHold (some (w, n - 1)) s)
  | none => .next (if usTickPulse then usTick s else s)

/-- A cycle's host write with BUSY = 0 (R73, R281); a cycle without one leaves the idle engine as it is. -/
def writeEdge (h : Option Access) (s : State) : Result :=
  match h with
  | none => .next s
  | some (.read _) => .next s
  | some (.write a v) => if a = 0x00 then startCommand v s else .next (writeReg a v s)

/-- What an edge does to the state elements (R21). `rst` wins over the access and the pulse; with
BUSY = 1 a write is dropped (R75). The access and the pulse of one cycle both see the state before
the edge: a pulse in the cycle of a CMD write is not boundary 0 (R140), and a write in the cycle of a
command's end boundary is still dropped (log 17). -/
def stateEdge (c : Cycle) (s : State) : Result :=
  if c.rst then .next (resetEngine s)
  else if s.busy then engineEdge c.usTick s
  else writeEdge c.host s

/-- The port `h_rdata` of a cycle (R26): valid in every cycle with `h_sel` = 1, `h_we` = 0, that of a
`rst` included, with the word of the state before the edge. -/
def readPort (h : Option Access) (s t : State) : State :=
  match h with
  | none => t
  | some (.read a) => showRead a s t
  | some (.write _ _) => t

/-- One edge of `clk`: the state elements, and the port of the cycle. -/
def clkEdge (c : Cycle) (s : State) : Result :=
  match stateEdge c s with
  | .next t => .next (readPort c.host s t)
  | .fault r => .fault r
  | .refused r => .refused r

/-- One input, of either level. -/
def applyInput (i : Input) (s : State) : Result :=
  match i with
  | .access a => hostAccess a s
  | .clk c => clkEdge c s

end Sys2Proof.Machine
end

