-- ==== Sys2Proof/Machine/Step.lean ====
section
/-! DEFINITION. One step of the machine: the next input of the schedule takes effect (00_scope.md R16,
45_system.md R289). -/

namespace Sys2Proof.Machine

/-- The head of the schedule is taken; `h_rdata` is not valid unless this input reads (log 6). -/
def takeInput (rest : List Input) (s : State) : State := { s with inputs := rest, hRdata := none }

/-- One step. `h_rdata` is valid in the cycle of a read only (R26). With no input to come the engine
waits, unchanged (R52: "the engine is idle after reset and waits for a command"; log 8). -/
def step (s : State) : Host.Outcome State Fault Refusal :=
  match s.inputs with
  | [] => .next s
  | i :: rest => applyInput i (takeInput rest s)

/-- The state in which the very next step runs the command word `w`: the host's next access is the
write of `w` to CMD. The engine must be idle to take it, so a running command is dropped first
(log 22). -/
def State.withFetchWord (s : State) (_nbits w : Nat) : State :=
  let t := if s.busy then idle s else s
  { t with inputs := .access (.write 0x00 (BitVec.ofNat 32 w)) :: t.inputs }

end Sys2Proof.Machine
end

