-- ==== Sys2Proof/Machine/BusEnvironment.lean ====
section
/-! DEFINITION. What a set of devices answers during a ROM search (42_rom_search.md R203), as a check of a
bus trace. It is the environment of claims about the search, no part of the machine (00_scope.md R7 a):
`step` takes the answers from `State.line` (log 2, log 24). -/

namespace Sys2Proof.Machine

/-- `id_bit` at position i: the AND of the bits of the devices in the running; none gives 1 (R203). -/
def idAnswer (running : List Rom) (i : Nat) : Bool := running.all fun r => romBit r i

/-- `comp_bit` at position i: the AND of the complements (R203). -/
def compAnswer (running : List Rom) (i : Nat) : Bool := running.all fun r => !romBit r i

/-- The devices that stay in the running after the bit b was written at position i (R205). -/
def survivors (running : List Rom) (i : Nat) (b : Bool) : List Rom :=
  running.filter fun r => romBit r i == b

/-- The slots of the positions i, i − 1, ..., 1 are answered as the devices in the running answer; the
trace may end after the two read slots of a position (R208). -/
def positionsAnswered : Nat → List Rom → List Slot → Bool
  | 0, _, slots => slots.isEmpty
  | i + 1, running, .read a :: .read c :: slots =>
    a == idAnswer running (i + 1) && c == compAnswer running (i + 1) &&
      match slots with
      | [] => true
      | .write b :: slots' => positionsAnswered i (survivors running (i + 1) b) slots'
      | _ => false
  | _ + 1, _, _ => false

/-- The slots of one SEARCH_NEXT are answered as the devices `devs` answer: presence iff there is a
device, then after the eight write slots of the command byte the 64 positions. -/
def iterationAnswered (devs : List Rom) (slots : List Slot) : Bool :=
  match slots with
  | .reset p :: rest =>
    p == !devs.isEmpty && (if p then positionsAnswered 64 devs (rest.drop 8) else rest.isEmpty)
  | _ => false

/-- The slots a command issued, from the states before and after it. -/
def newSlots (s t : State) : List Slot := t.trace.drop s.trace.length

/-- A ROM as a number whose most significant bit is the first bit on the wire, position 64 (R214): the
bits of positions 64 down to 64 − n + 1. -/
def wireValue (r : Rom) : Nat → Nat
  | 0 => 0
  | n + 1 => 2 * wireValue r n + (if romBit r (64 - n) then 1 else 0)

/-- The order of R214: lexicographic on the bits in wire order. -/
def wireOrder (r : Rom) : Nat := wireValue r 64

/-- `ts` are the states after successive SEARCH_NEXT commands from `s`, each answered by the fixed set
`devs` (R215). -/
def SearchRun (devs : List Rom) : State → List State → Prop
  | _, [] => True
  | s, t :: ts =>
    execSearchNext s = .next t ∧ iterationAnswered devs (newSlots s t) = true ∧ SearchRun devs t ts

end Sys2Proof.Machine
end

