-- ==== Sys2Proof/Machine/HostProgram.lean ====
section
/-! DEFINITION. Host programs: the lines of 30_encoding.md R112 and the pseudo-instructions R120 to R129, D0's
public calls, run against `step` at either level. They are host software over the commands, no part of
the engine. -/

namespace Sys2Proof.Machine

/-- The word addresses of R71. -/
def addrCmd : Addr := 0x00
def addrStatus : Addr := 0x01
def addrCause : Addr := 0x02
def addrCfg : Addr := 0x03
def addrData : Addr := 0x04
def addrCrc : Addr := 0x05
def addrRes : Addr := 0x07
def addrTnum : Addr := 0x08
def addrTden : Addr := 0x09
def addrTc100 : Addr := 0x0A

/-- The word address of ROM[k] (R71). -/
def addrRom (k : Nat) : Addr := BitVec.ofNat 6 (0x10 + k)

/-- The word address of SROM[k] (R71). -/
def addrSrom (k : Nat) : Addr := BitVec.ofNat 6 (0x18 + k)

/-- The word address of BUF[k] (R71). -/
def addrBuf (k : Nat) : Addr := BitVec.ofNat 6 (0x20 + k)

/-! ### Programs -/

/-- What a host does from now on, ending with a value. It knows the words it reads and nothing else of
the engine. -/
inductive Prog (α : Type) where
  /-- Nothing more. -/
  | done (a : α)
  /-- `HostWrite(a, v)`, then the rest. -/
  | write (a : Addr) (v : Word) (rest : Prog α)
  /-- `HostRead(a)`; the rest depends on the word. -/
  | read (a : Addr) (rest : Word → Prog α)
  /-- Wait until `HostRead(0x01)[0] == 0` (R112), then the rest. -/
  | wait (rest : Prog α)

/-- One program after another. -/
def Prog.bind {α β : Type} : Prog α → (α → Prog β) → Prog β
  | .done a, f => f a
  | .write a v k, f => .write a v (k.bind f)
  | .read a k, f => .read a fun v => (k v).bind f
  | .wait k, f => .wait (k.bind f)

/-- The program with a function of its value. -/
def Prog.map {α β : Type} (f : α → β) (p : Prog α) : Prog β := p.bind fun a => .done (f a)

/-- The host's access of the next cycle. -/
def Prog.access? {α : Type} : Prog α → Option Access
  | .done _ => none
  | .write a v _ => some (.write a v)
  | .read a _ => some (.read a)
  | .wait _ => some (.read addrStatus)

/-- The program after that cycle, with what `h_rdata` showed in it: a wait goes on while bit 0 of STATUS
is 1. -/
def Prog.after {α : Type} (r : Option Word) : Prog α → Prog α
  | .done a => .done a
  | .write _ _ k => k
  | .read a k =>
    match r with
    | none => .read a k
    | some v => k v
  | .wait k =>
    match r with
    | none => .wait k
    | some v => if v.getLsbD 0 then .wait k else k

/-! ### Running a program -/

/-- What the platform gives the host for its next access: a turn at slot level, or a cycle of `clk`, with or
without a `us_tick` pulse. -/
inductive Turn where
  | slot
  | clk (usTick : Bool)
  deriving DecidableEq, Repr

/-- The input of the machine in a turn: at slot level a host without an access has none. -/
def Turn.input? (c : Turn) (h : Option Access) : Option Input :=
  match c with
  | .slot => h.map Input.access
  | .clk u => some (.clk ⟨false, u, h⟩)

/-- The input comes first in the schedule. -/
def schedule (i : Input) (s : State) : State := { s with inputs := i :: s.inputs }

/-- A host program over the turns of the platform, one access a turn (R85): what is left of it, and the state. A
program has ended when `done` is left. -/
def Prog.run {α : Type} : List Turn → Prog α → State → Host.Outcome (Prog α × State) Fault Refusal
  | [], p, s => .next (p, s)
  | c :: cs, p, s =>
    match c.input? p.access? with
    | none => p.run cs s
    | some i =>
      match step (schedule i s) with
      | .next t => (p.after t.hRdata).run cs t
      | .fault r => .fault r
      | .refused r => .refused r

/-! ### Lines (R112) -/

/-- A line of a host program. -/
inductive Line where
  /-- A command: the write of its word to CMD, then waiting until BUSY = 0. -/
  | cmd (i : Instr)
  /-- `ST name, v`. -/
  | st (a : Addr) (v : Word)
  /-- `LD name`: the value is the line's result. -/
  | ld (a : Addr)
  deriving DecidableEq, Repr

/-- The host may write the address: CFG, ROM[k] and BUF[k], besides CMD (R71). -/
def writable (a : Addr) : Bool :=
  a == addrCfg || (decide (0x10 ≤ a.toNat) && decide (a.toNat ≤ 0x17)) ||
    (decide (0x20 ≤ a.toNat) && decide (a.toNat ≤ 0x28))

/-- R112: a line names a command with a legal operand, or stores to a writable register. -/
def Line.wf : Line → Bool
  | .cmd i => i.wf
  | .st a _ => writable a
  | .ld _ => true

/-- The program of lines in order; its value is the results of its `LD` lines, in order. -/
def linesProg : List Line → Prog (List Word)
  | [] => .done []
  | .cmd i :: ls => .write addrCmd (encode i) (.wait (linesProg ls))
  | .st a v :: ls => .write a v (linesProg ls)
  | .ld a :: ls => .read a fun v => (linesProg ls).map (v :: ·)

/-! ### Pieces of the pseudo-instructions -/

/-- A command line. -/
def issue (i : Instr) : Prog Unit := .write addrCmd (encode i) (.wait (.done ()))

/-- `LD name`. -/
def load (a : Addr) : Prog Word := .read a .done

/-- `ST name, v` of a byte. -/
def storeByteAt (a : Addr) (v : Byte) : Prog Unit := .write a (v.zeroExtend 32) (.done ())

/-- `ST` of each byte of a list, from index k on. -/
def storeBytes (addr : Nat → Addr) : Nat → List Byte → Prog Unit
  | _, [] => .done ()
  | k, v :: vs => (storeByteAt (addr k) v).bind fun _ => storeBytes addr (k + 1) vs

/-- `LD` of n byte registers, from index k on. -/
def loadBytes (addr : Nat → Addr) : Nat → Nat → Prog (List Byte)
  | _, 0 => .done []
  | k, n + 1 => .read (addr k) fun v => (loadBytes addr (k + 1) n).map (v.extractLsb' 0 8 :: ·)

/-- CODE of a CAUSE word (R46). -/
def codeOf (c : Word) : BitVec 3 := c.extractLsb' 0 3

/-- INFO of a CAUSE word (R46). -/
def infoOf (c : Word) : Pos := c.extractLsb' 8 7

/-- Go on if the last command ended with cause OK, else report the cause. -/
def ifOk {α : Type} (p : Prog α) : Prog (Except (BitVec 3) α) :=
  .read addrCause fun c =>
    if codeOf c = Cause.ok.code then p.map .ok else .done (.error (codeOf c))

/-- Go on with the value of a call that did not report a cause. -/
def thenIfOk {α β : Type} (p : Prog (Except (BitVec 3) α)) (f : α → Prog (Except (BitVec 3) β)) :
    Prog (Except (BitVec 3) β) :=
  p.bind fun r =>
    match r with
    | .ok a => f a
    | .error c => .done (.error c)

/-- `ST ROM[k], rom[k]` for k = 0..7 (R122). -/
def storeRom (r : Rom) : Prog Unit := storeBytes addrRom 0 (romBytes r)

/-- The address of a composite command: one device, or all (BCAST). -/
def storeTarget : Option Rom → Prog Unit
  | some r => storeRom r
  | none => .done ()

/-! ### Bit transport (R120) -/

/-- `reset()`: STATUS.PRESENCE. -/
def resetCall : Prog Bool := (issue .reset).bind fun _ => (load addrStatus).map (·.getLsbD 1)

/-- `read_bit()`: DATA[0]. -/
def readBitCall : Prog Bool := (issue .readBit).bind fun _ => (load addrData).map (·.getLsbD 0)

/-- `write_bit(b)`. -/
def writeBitCall (b : Bool) : Prog Unit := issue (.writeBit b)

/-- `read_byte()`: DATA. -/
def readByteCall : Prog Byte := (issue .readByte).bind fun _ => (load addrData).map (·.extractLsb' 0 8)

/-- `write_byte(v)`. -/
def writeByteCall (v : Byte) : Prog Unit := issue (.writeByte v)

/-- The byte counts of the commands of a transfer of n bytes: at most 9 each, in order (R120). A transfer of no
bytes has no command, and CAUSE stays: DESIGN CHOICE, log 27. R120 says `READ_BYTES n` for n ≤ 9 and nothing of
n = 0, a count that R101 makes an InvalidArgument. -/
def transferSizes (n : Nat) : List Nat := List.replicate (n / 9) 9 ++ if n % 9 = 0 then [] else [n % 9]

/-- `READ_BYTES n; LD BUF[0..n−1]` for each count in turn. -/
def readTransfer : List Nat → Prog (List Byte)
  | [] => .done []
  | n :: ns => (issue (.readBytes (BitVec.ofNat 8 n))).bind fun _ =>
    (loadBytes addrBuf 0 n).bind fun d => (readTransfer ns).map (d ++ ·)

/-- `ST BUF[k], data[k]; WRITE_BYTES n` for each count in turn. -/
def writeTransfer : List Nat → List Byte → Prog Unit
  | [], _ => .done ()
  | n :: ns, d => (storeBytes addrBuf 0 (d.take n)).bind fun _ =>
    (issue (.writeBytes (BitVec.ofNat 8 n))).bind fun _ => writeTransfer ns (d.drop n)

/-- `read_bytes(n)`, split into commands of at most 9 bytes. -/
def readBytesCall (n : Nat) : Prog (List Byte) := readTransfer (transferSizes n)

/-- `write_bytes(data)`, split into commands of at most 9 bytes. -/
def writeBytesCall (d : List Byte) : Prog Unit := writeTransfer (transferSizes d.length) d

/-! ### Scan (R121) -/

/-- How a scan ended. -/
inductive ScanEnd where
  /-- STATUS.SDONE = 1: all devices found. -/
  | allFound
  /-- BusAbsent: presence failed. -/
  | absent
  /-- BusCollisionFault, and the host stops. -/
  | collision
  /-- Another cause: the iteration was refused. -/
  | refusedIteration
  /-- The bound the host gave is used up. -/
  | bound
  deriving DecidableEq, Repr

/-- What a scan reports. -/
structure ScanReport where
  /-- The ROMs, in discovery order. -/
  found : List (List Byte) := []
  /-- Every BusCollisionFault met, those after which the host went on too: its position, CAUSE.INFO. -/
  faults : List Pos := []
  ended : ScanEnd := .bound
  deriving DecidableEq, Repr

/-- The loop of `scan()`, with a bound of the host's own on the iterations, and the host's choice, by the number
of faults reported so far, to retry at a BusCollisionFault or to stop. -/
def scanLoop (retry : Nat → Bool) : Nat → ScanReport → Prog ScanReport
  | 0, acc => .done { acc with ended := .bound }
  | n + 1, acc => (issue .searchNext).bind fun _ => .read addrCause fun c =>
    if codeOf c = Cause.ok.code then
      (loadBytes addrSrom 0 8).bind fun r => .read addrStatus fun st =>
        let acc' := { acc with found := acc.found ++ [r] }
        if st.getLsbD 7 then .done { acc' with ended := .allFound } else scanLoop retry n acc'
    else if codeOf c = Cause.busAbsent.code then .done { acc with ended := .absent }
    else if codeOf c = Cause.busCollisionFault.code then
      let acc' := { acc with faults := acc.faults ++ [infoOf c] }
      if retry acc'.faults.length then scanLoop retry n acc' else .done { acc' with ended := .collision }
    else .done { acc with ended := .refusedIteration }

/-- `scan()`: SEARCH_INIT, then the loop. -/
def scan (bound : Nat) (retry : Nat → Bool) : Prog ScanReport :=
  (issue .searchInit).bind fun _ => scanLoop retry bound {}

/-! ### Addressing (R122) -/

/-- `select(rom)`. -/
def selectCall (r : Rom) : Prog Unit := (storeRom r).bind fun _ => issue .select

/-- `skip()`. -/
def skipCall : Prog Unit := issue .skip

/-- The commands after which a device selected by `select` or `skip` stays addressed: the primitives that
begin with no reset slot (R122, R345). The answer for the nine commands that use no bus (NOP, the four CRC
commands, SEARCH_INIT, ROM_TAKE, DECODE, GET_RES) is `false`: DESIGN CHOICE, log 29. R122 and R345 say that only
the primitives qualify, while R230 and R345 keep a selection until the next reset slot, which these do not send;
so `false` says of them that R122 does not list them, not that they cancel the selection. -/
def keepsSelection : Instr → Bool
  | .readBit => true
  | .writeBit _ => true
  | .readByte => true
  | .writeByte _ => true
  | .readBytes _ => true
  | .writeBytes _ => true
  | _ => false

/-! ### DS18x20 (R123 to R129) -/

/-- `convert(rom)`, or `convert(broadcast)` without one (R123). -/
def convertCall (r : Option Rom) : Prog Unit :=
  (storeTarget r).bind fun _ => issue (.convert r.isNone)

/-- `read_scratchpad(rom)`: BUF[0..8], or the cause (R124). -/
def readScratchpadCall (r : Rom) : Prog (Except (BitVec 3) (List Byte)) :=
  (storeRom r).bind fun _ => (issue .readSpad).bind fun _ => ifOk (loadBytes addrBuf 0 9)

/-- A reading of `read_temp`: TNUM/TDEN, and TC100. -/
structure Reading where
  num : Int
  den : Nat
  hundredths : Int
  deriving DecidableEq, Repr

/-- `read_temp(rom)`: decode only after a good read; on every failure the cause, never a number (R124). -/
def readTempCall (r : Rom) : Prog (Except (BitVec 3) Reading) :=
  thenIfOk (readScratchpadCall r) fun _ => (issue .decodeTemp).bind fun _ =>
    ifOk (.read addrTnum fun n => .read addrTden fun d => .read addrTc100 fun c =>
      .done ⟨n.toInt, d.toNat, c.toInt⟩)

/-- The value of `read_temp` as the state it ended in holds it: a reading, or the cause (R56, R124). -/
def readingOf (t : State) : Except Cause (Int × Nat) :=
  if t.cause = .ok ∧ t.tvalid = true then .ok (t.tnum.toInt, t.tden.toNat) else .error t.cause

/-- `write_scratchpad(rom, [th, tl, cfg])` (R125). -/
def writeScratchpadCall (r : Rom) (th tl cfg : Byte) : Prog Unit :=
  (storeRom r).bind fun _ => (storeBytes addrBuf 2 [th, tl, cfg]).bind fun _ => issue .writeSpad

/-- `resolution(rom)`, get: RES, or the cause of the read (R126). -/
def getResolutionCall (r : Rom) : Prog (Except (BitVec 3) Nat) :=
  thenIfOk (readScratchpadCall r) fun _ => (issue .getRes).bind fun _ =>
    (load addrRes).map fun v => .ok v.toNat

/-- `resolution(rom, bits)`, set, preserving the alarm bytes (R126). -/
def setResolutionCall (r : Rom) (bits : Byte) : Prog (Except (BitVec 3) Unit) :=
  thenIfOk (readScratchpadCall r) fun _ => (issue (.setRes bits)).map .ok

/-- `resolution(rom, bits)`, set, with chosen alarm bytes (R126). -/
def setResolutionAlarmsCall (r : Rom) (th tl bits : Byte) : Prog Unit :=
  (storeRom r).bind fun _ => (storeBytes addrBuf 2 [th, tl]).bind fun _ => issue (.setRes bits)

/-- `CRC_UPD data[k]` for each k in order. -/
def crcUpdates : List Byte → Prog Unit
  | [] => .done ()
  | v :: vs => (issue (.crcUpd v)).bind fun _ => crcUpdates vs

/-- `crc8(data)` for any length: CRC (R127). -/
def crcCall (d : List Byte) : Prog Byte :=
  (issue .crcClr).bind fun _ => (crcUpdates d).bind fun _ => (load addrCrc).map (·.extractLsb' 0 8)

/-- The CRC of the n bytes in BUF, n ≤ 9 (R127). -/
def crcOfBufCall (n : Byte) : Prog Byte :=
  (issue (.crcBuf n)).bind fun _ => (load addrCrc).map (·.extractLsb' 0 8)

/-- The check of the ROM in SROM after a scan: valid iff STATUS.CRCZ = 1 (R127). -/
def checkRomCall : Prog Bool := (issue (.crcRom true)).bind fun _ => (load addrStatus).map (·.getLsbD 5)

/-- `powermode()` of one device or of all: STATUS.PMODE if the cause is OK (R128). -/
def powerModeCall (r : Option Rom) : Prog (Except (BitVec 3) Bool) :=
  (storeTarget r).bind fun _ => (issue (.powerMode r.isNone)).bind fun _ =>
    ifOk ((load addrStatus).map (·.getLsbD 3))

/-- `ST CFG, 1`: the strong pull-up pin is configured (R128). -/
def configurePullUpCall : Prog Unit := .write addrCfg 1 (.done ())

/-- One look at a conversion: READ_BIT, then DATA[0]. Which level means "still converting" is the
device's (R129). -/
def busyPollCall : Prog Bool := readBitCall

end Sys2Proof.Machine
end

