-- ==== Sys2Proof/Machine/Waveform.lean ====
section
/-! DEFINITION. The waveforms of `ow_out` and `crit` as the table of 40_bit_transport.md R160 gives them,
apart from the sequencer's boundary actions: what claims hold the sequencer against. -/

namespace Sys2Proof.Machine

/-- `(first boundary, last boundary exclusive, ow_out, crit)` (R160). -/
structure Segment where
  first : Nat
  last : Nat
  owOut : Bool
  crit : Bool
  deriving DecidableEq, Repr

/-- R160, line by line; the gap is the prologue with SPU_EN = 1. -/
def SlotKind.segments : SlotKind → List Segment
  | .gap => [⟨0, config.tSpuOff, true, false⟩]
  | .reset =>
    [ ⟨0, config.tRstl, false, false⟩
    , ⟨config.tRstl, config.tRstl + config.tPds, true, true⟩
    , ⟨config.tRstl + config.tPds, resetLength, true, false⟩ ]
  | .read =>
    [ ⟨0, config.tRdLow, false, true⟩
    , ⟨config.tRdLow, config.tRdSample, true, true⟩
    , ⟨config.tRdSample, readLength, true, false⟩ ]
  | .write true =>
    [ ⟨0, config.tWrLow, false, true⟩
    , ⟨config.tWrLow, config.tWrLow + config.tWrSlot, true, true⟩
    , ⟨config.tWrLow + config.tWrSlot, writeLength, true, false⟩ ]
  | .write false =>
    [ ⟨0, config.tWrLow + config.tWrSlot, false, true⟩
    , ⟨config.tWrLow + config.tWrSlot, writeLength, true, false⟩ ]

/-- The levels of `(ow_out, crit)` from boundary t of a slot on; released outside every segment. -/
def SlotKind.levelsAt (k : SlotKind) (t : Nat) : Bool × Bool :=
  match k.segments.find? (fun g => decide (g.first ≤ t) && decide (t < g.last)) with
  | some g => (g.owOut, g.crit)
  | none => (true, false)

/-- The boundary at which a slot looks at `ow_in` (R157). -/
def SlotKind.sampleBoundary : SlotKind → Option Nat
  | .gap => none
  | .reset => some (config.tRstl + config.tPds)
  | .read => some config.tRdSample
  | .write _ => none

/-- How many samples a slot has taken when boundary t has passed. -/
def SlotKind.samplesBy (k : SlotKind) (t : Nat) : Nat :=
  match k.sampleBoundary with
  | none => 0
  | some n => if n ≤ t then 1 else 0

/-- The state after the boundaries 0, 1, ..., t of a primitive. -/
def afterBoundary (p : Prim) : Nat → State → State
  | 0, s => boundaryAction p 0 s
  | t + 1, s => boundaryAction p (t + 1) (afterBoundary p t s)

end Sys2Proof.Machine
end

