-- ==== Sys2Proof/Safety.lean ====
section
/-! DEFINITION. The terms claims are stated in: frames over the fields of State, what each command may
write (10_state.md R53), the invariant of the machine, and the hazards of the host (70_reset_and_hazards.md
R340 to R349) that the state alone can tell. -/

namespace Sys2Proof.Machine

/-- The fields of State, as names. -/
inductive Field where
  | owOut | crit | busy | hRdata | spul | presence | found | pmode | tvalid | cause | info | spuEn
  | data | buf | rom | srom | ldisc | crc | tnum | tden | tc100 | res
  | opc | arg | stepIx | byteIx | bitIx | shreg | tcnt
  | wrom | pos | ndisc | idb | cmpb
  | hold | inputs | line | draws | readDraws | trace | ticks
  deriving DecidableEq, Repr

/-- The field holds the same value in both states. -/
def Field.same (f : Field) (s t : State) : Prop :=
  match f with
  | .owOut => s.owOut = t.owOut
  | .crit => s.crit = t.crit
  | .busy => s.busy = t.busy
  | .hRdata => s.hRdata = t.hRdata
  | .spul => s.spul = t.spul
  | .presence => s.presence = t.presence
  | .found => s.found = t.found
  | .pmode => s.pmode = t.pmode
  | .tvalid => s.tvalid = t.tvalid
  | .cause => s.cause = t.cause
  | .info => s.info = t.info
  | .spuEn => s.spuEn = t.spuEn
  | .data => s.data = t.data
  | .buf => s.buf = t.buf
  | .rom => s.rom = t.rom
  | .srom => s.srom = t.srom
  | .ldisc => s.ldisc = t.ldisc
  | .crc => s.crc = t.crc
  | .tnum => s.tnum = t.tnum
  | .tden => s.tden = t.tden
  | .tc100 => s.tc100 = t.tc100
  | .res => s.res = t.res
  | .opc => s.opc = t.opc
  | .arg => s.arg = t.arg
  | .stepIx => s.stepIx = t.stepIx
  | .byteIx => s.byteIx = t.byteIx
  | .bitIx => s.bitIx = t.bitIx
  | .shreg => s.shreg = t.shreg
  | .tcnt => s.tcnt = t.tcnt
  | .wrom => s.wrom = t.wrom
  | .pos => s.pos = t.pos
  | .ndisc => s.ndisc = t.ndisc
  | .idb => s.idb = t.idb
  | .cmpb => s.cmpb = t.cmpb
  | .hold => s.hold = t.hold
  | .inputs => s.inputs = t.inputs
  | .line => s.line = t.line
  | .draws => s.draws = t.draws
  | .readDraws => s.readDraws = t.readDraws
  | .trace => s.trace = t.trace
  | .ticks => s.ticks = t.ticks

/-- Every field but those named is unchanged: the frame of an instruction. -/
def sameExcept (fs : List Field) (s t : State) : Prop := ∀ f, f ∉ fs → f.same s t

/-- What the end of every command writes (R53, R282): CAUSE, BUSY and the idle sequencer. -/
def endFields : List Field :=
  [.busy, .cause, .info, .opc, .arg, .stepIx, .byteIx, .bitIx, .shreg, .tcnt, .hold]

/-- What every bus-active command writes besides (R53): the line's ports, SPUL, the answers taken from
the environment and the records of the slots. -/
def busFields : List Field := [.owOut, .crit, .spul, .line, .draws, .trace, .ticks]

/-- The columns of R53 in which each command has a "w" or a "(w)", SPUL apart; for SEARCH_NEXT also its
working state (R50). -/
def writesOf : Instr → List Field
  | .nop => []
  | .reset => [.presence]
  | .readBit => [.data]
  | .writeBit _ => []
  | .readByte => [.data]
  | .writeByte _ => []
  | .readBytes _ => [.buf]
  | .writeBytes _ => []
  | .crcClr => [.crc]
  | .crcUpd _ => [.crc]
  | .crcBuf _ => [.crc]
  | .crcRom _ => [.crc]
  | .searchInit => [.srom, .ldisc, .found]
  | .searchNext => [.srom, .ldisc, .presence, .found, .wrom, .pos, .ndisc, .idb, .cmpb]
  | .romTake => [.rom]
  | .select => [.presence]
  | .skip => [.presence]
  | .convert _ => [.presence]
  | .readSpad => [.buf, .crc, .presence, .tvalid]
  | .writeSpad => [.presence]
  | .decodeTemp => [.tnum, .tden, .tc100, .tvalid]
  | .getRes => [.res]
  | .setRes _ => [.buf, .presence]
  | .powerMode _ => [.presence, .pmode]

/-- All a command may write. -/
def mayWrite (i : Instr) : List Field :=
  endFields ++ (if busActive i then busFields else []) ++ writesOf i

/-- The write slots of bytes, in wire order (R108). -/
def txSlots (vs : List Byte) : List Slot := (vs.flatMap wireBits).map Slot.write

/-- n read slots with the samples k, k + 1, ... of the state. -/
def rxSlots (s : State) (k n : Nat) : List Slot := (List.range n).map fun j => .read (s.sampleAt (k + j))

/-- The byte v is assembled from the samples k, ..., k + 7 of the state, bit 0 first (R145). -/
def AssembledFrom (s : State) (k : Nat) (v : Byte) : Prop := ∀ j, j < 8 → v.getLsbD j = s.sampleAt (k + j)

/-- The bytes sent by the prefix `Address(bcast)` (R231, R232, R235). -/
def addressBytes (bcast : Bool) (r : Rom) : List Byte :=
  if bcast then [config.cmdSkipRom] else config.cmdMatchRom :: romBytes r

/-! ### How a command ended and what it did on the line -/

/-- P (R141, R356): 1 if CFG.SPU_EN = 1, else 0. -/
def leadTicks (s : State) : Nat := if s.spuEn then 1 else 0

/-- A command has ended with a cause and an INFO (R282): CAUSE, BUSY = 0 and the idle sequencer. -/
def Ended (c : Cause) (i : Pos) (t : State) : Prop :=
  t.cause = c ∧ t.info = i ∧ t.busy = false ∧ t.opc = 0 ∧ t.arg = 0 ∧ t.stepIx = 0 ∧ t.byteIx = 0 ∧
    t.bitIx = 0 ∧ t.shreg = 0 ∧ t.tcnt = 0 ∧ t.hold = none

/-- Between s and t exactly the slots `xs` were issued, n samples of `ow_in` were taken, P + len ticks
passed, and the line was left released with `crit` = 0 (R140, R154). -/
def Ran (s t : State) (xs : List Slot) (n len : Nat) : Prop :=
  t.trace = s.trace ++ xs ∧ t.ticks = s.ticks + (leadTicks s + len) ∧ t.line = s.line.drop n ∧
    t.draws = s.draws + (n - s.line.length) ∧ t.owOut = true ∧ t.crit = false

/-- What a command leaves that ends after its reset slot because there is no presence (R292): `fs` are the
fields that its own rule writes besides. -/
def EndedAbsent (fs : List Field) (s t : State) : Prop :=
  Ended .busAbsent 0 t ∧ Ran s t [.reset false] 1 960 ∧ t.presence = false ∧ t.spul = false ∧
    sameExcept (endFields ++ busFields ++ Field.presence :: fs) s t

/-! ### Formats (30_encoding.md R101): what each word of an opcode, ZERO = 0, decodes to -/

/-- Format N: ARG must be 0. -/
def FormatN (opc : Byte) (i : Instr) : Prop :=
  ∀ arg, decode (commandWord opc arg) = if arg = 0 then .ok i else .error .reservedArg

/-- Format F: ARG[0] is the flag, ARG[7:1] must be 0. -/
def FormatF (opc : Byte) (mk : Bool → Instr) : Prop :=
  ∀ arg, decode (commandWord opc arg) =
    if arg.toNat / 2 = 0 then .ok (mk (decide (arg.toNat % 2 = 1))) else .error .reservedArg

/-- Format I: every ARG is legal. -/
def FormatI (opc : Byte) (mk : Byte → Instr) : Prop := ∀ arg, decode (commandWord opc arg) = .ok (mk arg)

/-- Format C: a count of 1 to 9. -/
def FormatC (opc : Byte) (mk : Byte → Instr) : Prop :=
  ∀ arg, decode (commandWord opc arg) =
    if 1 ≤ arg.toNat ∧ arg.toNat ≤ 9 then .ok (mk arg) else .error .badCount

/-- Format B: a resolution of 9 to 12. -/
def FormatB (opc : Byte) (mk : Byte → Instr) : Prop :=
  ∀ arg, decode (commandWord opc arg) =
    if 9 ≤ arg.toNat ∧ arg.toNat ≤ 12 then .ok (mk arg) else .error .badResolution

/-- The causes each command can end with once its word is decoded (R299). -/
def causesOf : Instr → List Cause
  | .nop => [.ok]
  | .reset => [.ok, .busAbsent]
  | .readBit => [.ok]
  | .writeBit _ => [.ok]
  | .readByte => [.ok]
  | .writeByte _ => [.ok]
  | .readBytes _ => [.ok]
  | .writeBytes _ => [.ok]
  | .crcClr => [.ok]
  | .crcUpd _ => [.ok]
  | .crcBuf _ => [.ok]
  | .crcRom _ => [.ok]
  | .searchInit => [.ok]
  | .searchNext => [.ok, .busAbsent, .busCollisionFault, .invalidArgument]
  | .romTake => [.ok]
  | .select => [.ok, .busAbsent]
  | .skip => [.ok, .busAbsent]
  | .convert _ => [.ok, .busAbsent]
  | .readSpad => [.ok, .busAbsent, .checksumFault]
  | .writeSpad => [.ok, .busAbsent]
  | .decodeTemp => [.ok, .unsupportedFamily, .invalidArgument]
  | .getRes => [.ok]
  | .setRes _ => [.ok, .busAbsent]
  | .powerMode _ => [.ok, .busAbsent]

/-- The composite commands that need a device (R159). -/
def isComposite : Instr → Bool
  | .searchNext => true
  | .select => true
  | .skip => true
  | .convert _ => true
  | .readSpad => true
  | .writeSpad => true
  | .setRes _ => true
  | .powerMode _ => true
  | _ => false

/-- A command that asserts the strong pull-up when it ends OK (R263). -/
def assertsPullUp : Instr → Bool
  | .convert _ => true
  | .writeSpad => true
  | .setRes _ => true
  | _ => false

/-! ### The samples and choices of one SEARCH_NEXT -/

/-- `id_bit` of position i: after the presence sample, two samples a position from 64 down (R207). -/
def idSample (s : State) (i : Nat) : Bool := s.sampleAt (1 + 2 * (64 - i))

/-- `comp_bit` of position i. -/
def compSample (s : State) (i : Nat) : Bool := s.sampleAt (2 + 2 * (64 - i))

/-- A collision at position i (R18, R203): both bits 0. -/
def collides (s : State) (i : Nat) : Bool := !idSample s i && !compSample s i

/-- The bit chosen at position i (R203, R204): by the branch rule at a collision, else `id_bit`. -/
def choiceAt (s : State) (i : Nat) : Bool :=
  if collides s i then
    decide (s.ldisc.toNat > i) || (romBit s.srom i && decide (s.ldisc.toNat ≠ i))
  else idSample s i

/-- The three slots of position i. -/
def positionSlots (s : State) (i : Nat) : List Slot :=
  [.read (idSample s i), .read (compSample s i), .write (choiceAt s i)]

/-- The slots of the positions 64, 63, ..., 64 − n + 1. -/
def positionsDown (s : State) (n : Nat) : List Slot :=
  (List.range n).flatMap fun k => positionSlots s (64 - k)

/-- Two ROMs agree at every position above i. -/
def agreeAbove (i : Nat) (r q : Rom) : Prop := ∀ j, i < j → j ≤ 64 → romBit r j = romBit q j

/-- At position i the ROM r takes branch 1 while a device of the set that agrees with it so far takes
branch 0: a collision the walk has resolved by 1. -/
def openBranch (devs : List Rom) (r : Rom) (i : Nat) : Prop :=
  romBit r i = true ∧ ∃ d ∈ devs, agreeAbove i r d ∧ romBit d i = false

/-- The search state after a successful iteration that was not the last (R201): SROM is a device and LDISC
is the last position at which it took branch 1 at a collision. -/
def CarriedState (devs : List Rom) (s : State) : Prop :=
  s.srom ∈ devs ∧ 1 ≤ s.ldisc.toNat ∧ s.ldisc.toNat ≤ 64 ∧ openBranch devs s.srom s.ldisc.toNat ∧
    ∀ i, 1 ≤ i → i < s.ldisc.toNat → ¬ openBranch devs s.srom i

/-! ### The invariant -/

/-- The engine is idle as R282 and R154 leave it: sequencer 0, line released, `crit` 0. -/
def State.idleOk (s : State) : Bool :=
  s.opc == 0 && s.arg == 0 && decide (s.stepIx = 0) && decide (s.byteIx = 0) && decide (s.bitIx = 0) &&
    s.shreg == 0 && decide (s.tcnt = 0) && s.hold.isNone && s.owOut && !s.crit

/-- The registers hold values the rules can produce: LDISC 0 to 65 (R33), NDISC and POS at most 64
(R50), RES 0 or 9 to 12 (R36), CAUSE and INFO as R291, and with TVALID a reading whose TDEN is not 0 and
whose TC100 is the floor of 100·TNUM/TDEN (R35). -/
def State.registersOk (s : State) : Bool :=
  decide (s.ldisc.toNat ≤ 65) && decide (s.ndisc.toNat ≤ 64) && decide (s.pos.toNat ≤ 64) &&
    (s.res == 0 || (decide (9 ≤ s.res.toNat) && decide (s.res.toNat ≤ 12))) &&
    s.cause.infoLegal s.info &&
    (!s.tvalid ||
      (s.tden != 0 && decide (s.tc100.toInt = Int.fdiv (100 * s.tnum.toInt) (s.tden.toNat : Int))))

/-- A primitive of the search loop. -/
def Prim.inSearch : Prim → Bool
  | .searchId => true
  | .searchComp => true
  | .searchWrite => true
  | _ => false

/-- A bus-active command is running at tick level, between two pulses: the sequencer points at a
primitive of the command, TCNT, BITIX, BYTEIX and POS are in range, SPUL is 0 from boundary 0 of the
prologue on (R141), and `ow_out` and `crit` are at the levels that R160 gives for the boundary last passed. -/
def State.sequencerOk (s : State) : Bool :=
  match running s with
  | none => false
  | some i =>
    match (prims i)[s.stepIx]? with
    | none => false
    | some p =>
      decide (s.tcnt ≤ (p.slotKind s).length s) && decide (s.bitIx ≤ 7) && decide (s.byteIx ≤ 8) &&
        (decide (p.bytes ≠ 0) || (decide (s.bitIx = 0) && decide (s.byteIx = 0))) &&
        (decide (p.bytes = 0) || decide (s.byteIx < p.bytes)) &&
        (!p.inSearch || decide (1 ≤ s.pos.toNat)) &&
        (if p = .prologue then
          decide (s.stepIx = 0) && s.owOut && !s.crit && (decide (s.tcnt = 0) || !s.spul)
        else decide (1 ≤ s.tcnt) && !s.spul &&
          (s.owOut, s.crit) == (p.slotKind s).levelsAt (s.tcnt - 1))

/-- The invariant of the machine. While an atomic command waits out N_CYC (R283) the line is released
and the sequencer is at rest but for OPC and ARG. -/
def State.ok (s : State) : Bool :=
  s.registersOk &&
    (if s.busy then
      match s.hold with
      | some (_, n) => decide (1 ≤ n) && s.owOut && !s.crit
      | none => s.sequencerOk
    else s.idleOk)

/-! ### Safe runs -/

/-- A rule that a host access breaks, as far as the state tells: of 70_reset_and_hazards.md, and of 10_state.md
R56 and 93_implementation_defined.md U17, a use of a register whose value has no meaning. -/
inductive Hazard where
  /-- R340: a write while BUSY = 1. -/
  | writeWhileBusy
  /-- R341: a read of anything but STATUS while BUSY = 1. -/
  | readWhileBusy
  /-- R74: a reserved address. -/
  | reservedAddress
  /-- R343: a bus-active command while the strong pull-up holds, `spu_out` = 1. DESIGN CHOICE, log 28: when the
  device's power-hungry operation ends is open, and the model counts it as going on until `spu_out` is 0. -/
  | busUnderPullUp
  /-- R346: DECODE or GET_RES while the last command ended with a fault. -/
  | decodeAfterFault
  /-- R56: SROM used with FOUND = 0. -/
  | romNotFound
  /-- R56: TNUM, TDEN or TC100 read with TVALID = 0. -/
  | readingNotValid
  /-- R56, U17: BUF read although the last command ended with BusAbsent or ChecksumFault. -/
  | bufferNotValid
  deriving DecidableEq, Repr

/-- R74: the reserved addresses 0x0B to 0x0F and 0x29 to 0x3F. -/
def reservedAddr (a : Addr) : Bool :=
  (decide (0x0B ≤ a.toNat) && decide (a.toNat ≤ 0x0F)) || decide (0x29 ≤ a.toNat)

/-- The addresses of TNUM, TDEN and TC100 (R71). -/
def readingAddr (a : Addr) : Bool := decide (0x08 ≤ a.toNat) && decide (a.toNat ≤ 0x0A)

/-- The addresses of SROM (R71). -/
def sromAddr (a : Addr) : Bool := decide (0x18 ≤ a.toNat) && decide (a.toNat ≤ 0x1F)

/-- The addresses of BUF (R71). -/
def bufAddr (a : Addr) : Bool := decide (0x20 ≤ a.toNat) && decide (a.toNat ≤ 0x28)

/-- The commands by which a host uses SROM as a discovered ROM. SEARCH_NEXT reads it too, as the state of
the search (R201), and needs no FOUND. -/
def usesFoundRom : Instr → Bool
  | .romTake => true
  | .crcRom srom => srom
  | _ => false

/-- The hazards of a command word in a state. `busUnderPullUp` lasts as long as `spu_out` = 1 (DESIGN CHOICE, log
28), so a host that has waited out a conversion, as R343 asks, meets it too unless it clears CFG.SPU_EN first. -/
def commandHazards (w : Word) (s : State) : List Hazard :=
  match decode w with
  | .error _ => []
  | .ok i =>
    (if busActive i && s.spuOut then [.busUnderPullUp] else []) ++
      (if (decide (i = .decodeTemp) || decide (i = .getRes)) && decide (s.cause ≠ .ok) then
        [.decodeAfterFault] else []) ++
      (if usesFoundRom i && !s.found then [.romNotFound] else [])

/-- The registers a read uses although the flags say that they mean nothing (R56). -/
def readHazards (a : Addr) (s : State) : List Hazard :=
  (if sromAddr a && !s.found then [.romNotFound] else []) ++
    (if readingAddr a && !s.tvalid then [.readingNotValid] else []) ++
    (if bufAddr a && (decide (s.cause = .busAbsent) || decide (s.cause = .checksumFault)) then
      [.bufferNotValid] else [])

/-- The hazards of a host access in a state. -/
def hazards (a : Access) (s : State) : List Hazard :=
  match a with
  | .read a =>
    (if s.busy && a != addrStatus then [.readWhileBusy] else []) ++
      (if reservedAddr a then [.reservedAddress] else []) ++ readHazards a s
  | .write a v =>
    (if s.busy then [.writeWhileBusy] else if a = addrCmd then commandHazards v s else []) ++
      (if reservedAddr a then [.reservedAddress] else [])

/-- The host access of an input, if it holds one that takes effect: in the cycle of a `rst` a read does. -/
def Input.hostAccess? : Input → Option Access
  | .access a => some a
  | .clk c =>
    match c.host with
    | none => none
    | some (.read a) => some (.read a)
    | some (.write a v) => if c.rst then none else some (.write a v)

/-- A run of n steps in which no host access breaks one of these rules. -/
def safeRun : Nat → State → Bool
  | 0, _ => true
  | n + 1, s =>
    (match s.inputs.head?.bind Input.hostAccess? with
    | none => true
    | some a => (hazards a s).isEmpty) &&
      match step s with
      | .next t => safeRun n t
      | .fault _ => false
      | .refused _ => false

end Sys2Proof.Machine
end

