-- ==== Sys2Proof/Certificates/Slice0/Obligations.lean ====
section
/-! DEFINITION. The statements about OWCORE, in the order of the spec's files. Each docstring names the
rules it formalises; "model's own" marks what rests on an entry of the assumption log. -/

section OwcoreStatements

open Sys2Proof Sys2Proof.Machine

/-! ### Encoding (30_encoding.md) -/

/-- R103 and the words of 95_test_vectors.md 3.1: words written out from the spec's own encodings. -/
def Obligations.SpecWordsDecodeAsListed : Prop :=
  decode 0x00000000 = .ok .nop ∧
  decode 0x00000001 = .ok .reset ∧
  decode 0x00000002 = .ok .readBit ∧
  decode 0x00000103 = .ok (.writeBit true) ∧
  decode 0x00000004 = .ok .readByte ∧
  decode 0x0000FF05 = .ok (.writeByte 0xFF) ∧
  decode 0x00000906 = .ok (.readBytes 9) ∧
  decode 0x00000307 = .ok (.writeBytes 3) ∧
  decode 0x00000010 = .ok .crcClr ∧
  decode 0x00002811 = .ok (.crcUpd 0x28) ∧
  decode 0x00000812 = .ok (.crcBuf 8) ∧
  decode 0x00000113 = .ok (.crcRom true) ∧
  decode 0x00000020 = .ok .searchInit ∧
  decode 0x00000021 = .ok .searchNext ∧
  decode 0x00000022 = .ok .romTake ∧
  decode 0x00000030 = .ok .select ∧
  decode 0x00000031 = .ok .skip ∧
  decode 0x00000140 = .ok (.convert true) ∧
  decode 0x00000041 = .ok .readSpad ∧
  decode 0x00000042 = .ok .writeSpad ∧
  decode 0x00000043 = .ok .decodeTemp ∧
  decode 0x00000044 = .ok .getRes ∧
  decode 0x00000C45 = .ok (.setRes 12) ∧
  decode 0x00000046 = .ok (.powerMode false) ∧
  decode 0x000100FF = .error .highBits ∧
  decode 0x00000047 = .error .undefinedOpcode ∧
  decode 0x00000303 = .error .reservedArg ∧
  decode 0x00000A06 = .error .badCount ∧
  decode 0x00000845 = .error .badResolution

/-- Decoding what is encoded gives it back, for every command with every operand its format admits
(R101, R112). -/
def Obligations.DecodeAfterEncodeIsIdentity : Prop :=
  ∀ i : Instr, i.wf = true → decode (encode i) = .ok i

/-- Each command has one word: a word that decodes to a command is that command's encoding, and the
command's operand is one that its format admits (R101, R102, R104 step 6). -/
def Obligations.DecodedWordIsTheCommandsEncoding : Prop :=
  ∀ (w : Word) (i : Instr), decode w = .ok i → i.wf = true ∧ encode i = w

/-- R103: the opcode map, its format, `bus`, `match` and `mask` columns, and "the command is selected iff
`w & mask == match`", the operand being what the mask leaves. -/
def Obligations.MatchAndMaskSelectTheCommand : Prop :=
  opcodeMap.map (fun r => (r.opc, r.mnemonic, r.shape.format, r.matchWord, r.shape.mask)) =
    [(0x00, "NOP", "N", 0x00000000, 0xFFFFFFFF), (0x01, "RESET", "N", 0x00000001, 0xFFFFFFFF),
     (0x02, "READ_BIT", "N", 0x00000002, 0xFFFFFFFF), (0x03, "WRITE_BIT", "F", 0x00000003, 0xFFFFFEFF),
     (0x04, "READ_BYTE", "N", 0x00000004, 0xFFFFFFFF), (0x05, "WRITE_BYTE", "I", 0x00000005, 0xFFFF00FF),
     (0x06, "READ_BYTES", "C", 0x00000006, 0xFFFF00FF), (0x07, "WRITE_BYTES", "C", 0x00000007, 0xFFFF00FF),
     (0x10, "CRC_CLR", "N", 0x00000010, 0xFFFFFFFF), (0x11, "CRC_UPD", "I", 0x00000011, 0xFFFF00FF),
     (0x12, "CRC_BUF", "C", 0x00000012, 0xFFFF00FF), (0x13, "CRC_ROM", "F", 0x00000013, 0xFFFFFEFF),
     (0x20, "SEARCH_INIT", "N", 0x00000020, 0xFFFFFFFF), (0x21, "SEARCH_NEXT", "N", 0x00000021, 0xFFFFFFFF),
     (0x22, "ROM_TAKE", "N", 0x00000022, 0xFFFFFFFF), (0x30, "SELECT", "N", 0x00000030, 0xFFFFFFFF),
     (0x31, "SKIP", "N", 0x00000031, 0xFFFFFFFF), (0x40, "CONVERT", "F", 0x00000040, 0xFFFFFEFF),
     (0x41, "READ_SPAD", "N", 0x00000041, 0xFFFFFFFF), (0x42, "WRITE_SPAD", "N", 0x00000042, 0xFFFFFFFF),
     (0x43, "DECODE", "N", 0x00000043, 0xFFFFFFFF), (0x44, "GET_RES", "N", 0x00000044, 0xFFFFFFFF),
     (0x45, "SET_RES", "B", 0x00000045, 0xFFFF00FF), (0x46, "POWERMODE", "F", 0x00000046, 0xFFFFFEFF)] ∧
  (∀ (w : Word) (i : Instr), decode w = .ok i ↔
    ∃ r ∈ opcodeMap, w &&& r.shape.mask = r.matchWord ∧ r.shape.operand (wordArg w) = .ok i) ∧
  (∀ (w : Word) (r q : OpRow), r ∈ opcodeMap → q ∈ opcodeMap →
    w &&& r.shape.mask = r.matchWord → w &&& q.shape.mask = q.matchWord → r.opc = q.opc) ∧
  (∀ i : Instr, busActive i = true ↔
    i.opc ∈ ([0x01, 0x02, 0x03, 0x04, 0x05, 0x06, 0x07, 0x21, 0x30, 0x31, 0x40, 0x41, 0x42, 0x45,
      0x46] : List Byte))

/-- R104: the decoder is total and rejects in the rule's order; R101's operand ranges. The opcodes are
listed by format; the clauses exclude each other. -/
def Obligations.DecoderRejectsInSpecOrder : Prop :=
  let opN : List Byte :=
    [0x00, 0x01, 0x02, 0x04, 0x10, 0x20, 0x21, 0x22, 0x30, 0x31, 0x41, 0x42, 0x43, 0x44]
  let opF : List Byte := [0x03, 0x13, 0x40, 0x46]
  let opI : List Byte := [0x05, 0x11]
  let opC : List Byte := [0x06, 0x07, 0x12]
  let opB : List Byte := [0x45]
  (∀ w : Word,
    let opc := w.extractLsb' 0 8
    let arg := (w.extractLsb' 8 8).toNat
    (w.toNat / 2 ^ 16 ≠ 0 → decode w = .error .highBits) ∧
    (w.toNat / 2 ^ 16 = 0 →
      (opc ∉ opN ++ opF ++ opI ++ opC ++ opB → decode w = .error .undefinedOpcode) ∧
      (opc ∈ opN → if arg ≠ 0 then decode w = .error .reservedArg
        else ∃ i, decode w = .ok i ∧ encode i = w) ∧
      (opc ∈ opF → if 2 ≤ arg then decode w = .error .reservedArg
        else ∃ i, decode w = .ok i ∧ encode i = w) ∧
      (opc ∈ opI → ∃ i, decode w = .ok i ∧ encode i = w) ∧
      (opc ∈ opC → if arg = 0 ∨ 9 < arg then decode w = .error .badCount
        else ∃ i, decode w = .ok i ∧ encode i = w) ∧
      (opc ∈ opB → if arg < 9 ∨ 12 < arg then decode w = .error .badResolution
        else ∃ i, decode w = .ok i ∧ encode i = w))) ∧
  DecodeError.highBits.info = 2 ∧ DecodeError.undefinedOpcode.info = 1 ∧
  DecodeError.reservedArg.info = 2 ∧ DecodeError.badCount.info = 3 ∧
  DecodeError.badResolution.info = 4 ∧
  (∀ (w : Word) (e : DecodeError) (s : State), decode w = .error e →
    ∃ t, command w s = .next t ∧ Ended .invalidArgument e.info t)

/-! ### Starting, stepping and ending (45_system.md, 60_exceptions.md) -/

/-- R281, R289: with the engine idle, a step whose input is a write of a command's word to CMD is `exec` of
that command from its accepted state (BUSY, OPC, ARG); the step has taken the input from the schedule,
and `h_rdata` is not valid. `withFetchWord` stands for such a write (log 8, 22). -/
def Obligations.StepRunsTheDecodedCommand : Prop :=
  (∀ (s : State) (w : Word) (i : Instr) (rest : List Input),
    s.inputs = .access (.write 0x00 w) :: rest → s.busy = false → decode w = .ok i →
    step s = exec i (accept w { s with inputs := rest, hRdata := none })) ∧
  (∀ (s : State) (nbits w : Nat) (i : Instr), decode (BitVec.ofNat 32 w) = .ok i →
    step (s.withFetchWord nbits w) =
      exec i (accept (BitVec.ofNat 32 w) { (if s.busy then idle s else s) with hRdata := none }))

/-- R282: every command ends, with a cause and an INFO, BUSY = 0 and the sequencer idle; a line that was
released with `crit` = 0 is so at the end (R154). -/
def Obligations.EveryCommandEndsIdle : Prop :=
  ∀ (i : Instr) (s : State),
    ∃ t, exec i s = .next t ∧ (∃ c n, Ended c n t) ∧
      (s.owOut = true → s.crit = false → t.owOut = true ∧ t.crit = false)

/-- R53: what each command may write: CAUSE, BUSY and the idle sequencer; the ports, SPUL and the records of
the line if it is bus-active; and the columns of the table. Everything else keeps its value. -/
def Obligations.CommandWritesOnlyItsColumns : Prop :=
  ∀ (i : Instr) (s : State), ∃ t, exec i s = .next t ∧ sameExcept (mayWrite i) s t

/-- R296, R100, R105, R281: InvalidArgument (a) of the decoder and (b) of SEARCH_NEXT's acceptance check change
CAUSE and nothing else of an idle engine, so the next command is accepted; (c) of DECODE has cleared
TVALID besides. 232 opcodes are undefined. -/
def Obligations.InvalidArgumentChangesOnlyCause : Prop :=
  (∀ (s : State) (w : Word) (e : DecodeError),
    s.busy = false → s.idleOk = true → decode w = .error e →
    hostAccess (.write 0x00 w) s = .next { s with cause := .invalidArgument, info := e.info }) ∧
  (∀ s : State, s.busy = false → s.idleOk = true → s.ldisc = 0 →
    hostAccess (.write 0x00 (encode .searchNext)) s =
      .next { s with cause := .invalidArgument, info := 5 }) ∧
  (∀ s : State, s.busy = false → s.idleOk = true → byteAt s.rom 0 = 0x10 → byteAt s.buf 7 = 0 →
    hostAccess (.write 0x00 (encode .decodeTemp)) s =
      .next { s with cause := .invalidArgument, info := 6, tvalid := false }) ∧
  ((List.range 256).filter fun n =>
    (match decode (commandWord (BitVec.ofNat 8 n) 0) with
    | .error .undefinedOpcode => true
    | _ => false)).length = 232

/-- R299, R291: the causes that each command can end with, and the INFO that each cause records; an
InvalidArgument of a well-formed command is SEARCH_NEXT's 5 or DECODE's 6. -/
def Obligations.CauseIsOneTheCommandCanRaise : Prop :=
  ∀ (i : Instr) (s : State), i.wf = true →
    ∃ t, exec i s = .next t ∧ t.cause ∈ causesOf i ∧ t.cause.infoLegal t.info = true ∧
      (t.cause = .invalidArgument →
        (i = .searchNext ∧ t.info = 5) ∨ (i = .decodeTemp ∧ t.info = 6))

/-- R42, R263, R264, R141: SPUL after each command. A command that issues no slot leaves it; every other
clears it, and CONVERT, WRITE_SPAD and SET_RES that end OK with CFG.SPU_EN = 1 set it at their end. -/
def Obligations.PullUpLatchAfterEachCommand : Prop :=
  ∀ (i : Instr) (s : State), i.wf = true →
    ∃ t, exec i s = .next t ∧
      t.spul =
        if busActive i = false ∨ (i = .searchNext ∧ s.ldisc = 0) then s.spul
        else assertsPullUp i && decide (t.cause = .ok) && s.spuEn

/-- R292, R159: no presence ends RESET and every composite command after the reset slot, at tick P + 960, with
BusAbsent; nothing is written but PRESENCE = 0, SPUL = 0, CAUSE and what the rule names per command. -/
def Obligations.NoPresenceEndsTheCommand : Prop :=
  ∀ (i : Instr) (s : State), i.wf = true → (isComposite i = true ∨ i = .reset) →
    (i = .searchNext → s.ldisc ≠ 0) → s.sampleAt 0 = true →
    ∃ t, exec i s = .next t ∧ EndedAbsent [.found, .ldisc, .tvalid, .buf] s t ∧
      t.found = (if i = .searchNext then false else s.found) ∧
      t.ldisc = (if i = .searchNext then 0 else s.ldisc) ∧
      t.tvalid = (if i = .readSpad then false else s.tvalid) ∧
      t.buf = (match i with
        | .setRes bits => setByte s.buf 4 (configByte bits)
        | _ => s.buf)

/-- R280: NOP writes CAUSE only (and, as every command, ends). -/
def Obligations.NopOnlyWritesCause : Prop :=
  FormatN 0x00 .nop ∧
  ∀ s : State, ∃ t, exec .nop s = .next t ∧ Ended .ok 0 t ∧ sameExcept endFields s t

/-! ### The host register space (10_state.md, 20_memory.md) -/

/-- R75, R21, R26: a write while BUSY = 1 is dropped, at both levels: the engine goes on as if there were none. The
clk clause also covers the cycle of a command's end boundary; that the write sees BUSY = 1 there is the model's
own reading (log 17). -/
def Obligations.WritesWhileBusyAreDropped : Prop :=
  ∀ (s : State) (a : Addr) (v : Word) (rest : List Input), s.busy = true →
    (s.inputs = .access (.write a v) :: rest →
      step s = .next { s with inputs := rest, hRdata := none }) ∧
    (∀ u : Bool, s.inputs = .clk ⟨false, u, some (.write a v)⟩ :: rest →
      step s = step { s with inputs := .clk ⟨false, u, none⟩ :: rest })

/-- R73, R74, R71, R93: with BUSY = 0 a write to CMD is taken as a command; a write to any other address reaches CFG,
ROM[k] or BUF[k], their implemented bits only, and nothing else, and elsewhere it changes nothing. The
second clause holds at both levels. -/
def Obligations.HostWriteReachesItsRegisterOnly : Prop :=
  (∀ (s : State) (v : Word) (rest : List Input), s.busy = false →
    s.inputs = .access (.write 0x00 v) :: rest →
    step s = match decode v with
      | .ok i => exec i (accept v { s with inputs := rest, hRdata := none })
      | .error e => .next (raise .invalidArgument e.info (accept v { s with inputs := rest, hRdata := none }))) ∧
  (∀ (s : State) (a : Addr) (v : Word) (rest : List Input) (u : Bool), s.busy = false → a ≠ 0x00 →
    (s.inputs = .access (.write a v) :: rest ∨ s.inputs = .clk ⟨false, u, some (.write a v)⟩ :: rest) →
    ∃ t, step s = .next t ∧
      t.inputs = rest ∧ t.hRdata = none ∧
      t.spuEn = (if a.toNat = 0x03 then v.getLsbD 0 else s.spuEn) ∧
      (∀ k, k < 8 →
        byteAt t.rom k = if a.toNat = 0x10 + k then v.extractLsb' 0 8 else byteAt s.rom k) ∧
      (∀ k, k < 9 →
        byteAt t.buf k = if a.toNat = 0x20 + k then v.extractLsb' 0 8 else byteAt s.buf k) ∧
      sameExcept [.inputs, .hRdata, .spuEn, .rom, .buf] s t)

/-- R72, R71, R48, R74, R26: with BUSY = 0 a read returns the register at its address in its implemented bits, every
other bit 0, and changes nothing (but `h_rdata`, on which the word stands), at slot level and in a cycle of
`clk`, with a `us_tick` pulse or without. -/
def Obligations.HostReadReturnsTheRegister : Prop :=
  ∀ (s : State) (a : Addr), s.busy = false →
    ∃ v, hostAccess (.read a) s = .next { s with hRdata := some v } ∧
      (∀ rest, s.inputs = .access (.read a) :: rest →
        step s = .next { s with inputs := rest, hRdata := some v }) ∧
      (∀ u rest, s.inputs = .clk ⟨false, u, some (.read a)⟩ :: rest →
        step s = .next { s with inputs := rest, hRdata := some v }) ∧
      (a.toNat = 0x00 → v = 0) ∧
      (a.toNat = 0x01 → v = s.statusWord) ∧
      (a.toNat = 0x02 → v = s.causeWord) ∧
      (a.toNat = 0x03 → v.toNat = s.spuEn.toNat) ∧
      (a.toNat = 0x04 → v.toNat = s.data.toNat) ∧
      (a.toNat = 0x05 → v.toNat = s.crc.toNat) ∧
      (a.toNat = 0x06 → v.toNat = s.ldisc.toNat) ∧
      (a.toNat = 0x07 → v.toNat = s.res.toNat) ∧
      (a.toNat = 0x08 → v.toInt = s.tnum.toInt) ∧
      (a.toNat = 0x09 → v.toNat = s.tden.toNat) ∧
      (a.toNat = 0x0A → v.toInt = s.tc100.toInt) ∧
      (∀ k, k < 8 → a.toNat = 0x10 + k → v.toNat = (byteAt s.rom k).toNat) ∧
      (∀ k, k < 8 → a.toNat = 0x18 + k → v.toNat = (byteAt s.srom k).toNat) ∧
      (∀ k, k < 9 → a.toNat = 0x20 + k → v.toNat = (byteAt s.buf k).toNat) ∧
      (0x0B ≤ a.toNat ∧ a.toNat ≤ 0x0F ∨ 0x29 ≤ a.toNat → v = 0)

/-- R76, R26: with BUSY = 1 a read of STATUS returns the current STATUS with BUSY = 1; a read of any other register
returns some word, of which the model says nothing (log 4: a free value, whose counter moves). The read
changes nothing: at slot level the engine is as before, and in a cycle of `clk` it does what it does in the same
cycle without the read, whatever that is. The STATUS shown there is that of the state before the edge (log 17). -/
def Obligations.BusyReadDefinesStatusOnly : Prop :=
  (∀ (s : State) (a : Addr), s.busy = true →
    (a.toNat = 0x01 → hostAccess (.read a) s = .next { s with hRdata := some s.statusWord } ∧
      s.statusWord.getLsbD 0 = true ∧ s.statusWord.getLsbD 4 = s.spuOut) ∧
    (a.toNat ≠ 0x01 → ∃ t, hostAccess (.read a) s = .next t ∧ (∃ v, t.hRdata = some v) ∧
      sameExcept [.hRdata, .readDraws] s t)) ∧
  (∀ (s : State) (a : Addr) (r u : Bool) (rest : List Input), s.busy = true →
    s.inputs = .clk ⟨r, u, some (.read a)⟩ :: rest →
    ∃ t, step { s with inputs := .clk ⟨r, u, none⟩ :: rest } = .next t ∧ t.hRdata = none ∧
      (a.toNat = 0x01 → step s = .next { t with hRdata := some s.statusWord }) ∧
      (a.toNat ≠ 0x01 →
        ∃ v n, step s = .next { t with hRdata := some v, readDraws := n }))

/-- R37, R38 to R45, R24, R46, R290: the fields of STATUS, the combinational ones included; CODE in bits 2:0 of CAUSE with
the codes of R290, INFO in bits 14:8; every other bit 0. -/
def Obligations.StatusAndCauseWordsShowTheirFields : Prop :=
  ∀ s : State,
    s.statusWord.getLsbD 0 = s.busy ∧
    s.statusWord.getLsbD 1 = s.presence ∧
    s.statusWord.getLsbD 2 = s.found ∧
    s.statusWord.getLsbD 3 = s.pmode ∧
    s.statusWord.getLsbD 4 = (s.spuEn && s.spul) ∧
    s.statusWord.getLsbD 5 = decide (s.crc = 0) ∧
    s.statusWord.getLsbD 6 = s.tvalid ∧
    s.statusWord.getLsbD 7 = decide (s.ldisc = 0) ∧
    (∀ k, 8 ≤ k → s.statusWord.getLsbD k = false) ∧
    s.causeWord.toNat = 256 * s.info.toNat +
      (match s.cause with
      | .ok => 0
      | .busAbsent => 1
      | .busCollisionFault => 2
      | .checksumFault => 3
      | .unsupportedFamily => 4
      | .invalidArgument => 5)

/-! ### Reset (10_state.md R52, 70_reset_and_hazards.md) -/

/-- R52: the reset values the table states (WROM, POS, NDISC, IDB, CMPB are unspecified there and not
mentioned here), and what the host reads of them. -/
def Obligations.ResetStateHasTheStatedValues : Prop :=
  State.reset.owOut = true ∧ State.reset.spuOut = false ∧ State.reset.spul = false ∧
  State.reset.crit = false ∧ State.reset.busy = false ∧
  State.reset.presence = false ∧ State.reset.found = false ∧ State.reset.pmode = false ∧
  State.reset.tvalid = false ∧ State.reset.crcz = true ∧ State.reset.sdone = false ∧
  State.reset.cause = .ok ∧ State.reset.info = 0 ∧ State.reset.spuEn = false ∧
  State.reset.data = 0x00 ∧ (∀ k, k < 9 → byteAt State.reset.buf k = 0x00) ∧
  (∀ k, k < 8 → byteAt State.reset.rom k = 0x00 ∧ byteAt State.reset.srom k = 0x00) ∧
  State.reset.ldisc.toNat = 65 ∧ State.reset.crc = 0x00 ∧
  State.reset.tnum = 0 ∧ State.reset.tc100 = 0 ∧ State.reset.tden = 0 ∧ State.reset.res = 0 ∧
  State.reset.opc = 0 ∧ State.reset.arg = 0 ∧ State.reset.stepIx = 0 ∧ State.reset.byteIx = 0 ∧
  State.reset.bitIx = 0 ∧ State.reset.shreg = 0 ∧ State.reset.tcnt = 0 ∧
  readReg addrStatus State.reset = 0x20 ∧ readReg addrCause State.reset = 0

/-- R330, R21, R332: an edge with `rst` = 1 gives every state element that R52 states a value for its reset value,
whatever the engine was doing and whatever else happens at that edge. A read in that cycle is answered, with
BUSY = 0 by the register of the state before the edge (R26, R72; log 17). The model's own records stay (log 16);
the unspecified search working state is not mentioned (log 3). -/
def Obligations.ResetEdgeRestoresEveryElement : Prop :=
  ∀ (s : State) (c : Cycle) (rest : List Input), c.rst = true → s.inputs = .clk c :: rest →
    ∃ t, step s = .next t ∧
      sameExcept [.wrom, .pos, .ndisc, .idb, .cmpb, .hRdata, .inputs, .line, .draws, .readDraws, .trace,
        .ticks] State.reset t ∧
      t.inputs = rest ∧ t.line = s.line ∧ t.trace = s.trace ∧
      (∀ a, c.host = some (.read a) → ∃ v, t.hRdata = some v ∧
        (s.busy = false → v = readReg a s) ∧ (a.toNat = 0x01 → v = s.statusWord)) ∧
      ((∀ a, c.host ≠ some (.read a)) → t.hRdata = none)

/-- The model's own invariant `State.ok` (Safety.lean; log 3, 6 for the values of reset it includes) holds at reset. -/
def Obligations.InvariantHoldsAtReset : Prop := State.reset.ok = true

/-- Every step from a state that meets the invariant answers a next state that meets it, whatever the input: LDISC
stays 0 to 65, RES and INFO legal, a reading with TVALID is exact, an idle engine is idle as R282 leaves it, a
running command is at a boundary with the levels of R160, and SPUL is 0 from its prologue on (R141).
State.ok is the model's own invariant; it gathers R33, R36, R49, R50, R59, R154, R160, R282, R291. -/
def Obligations.EveryStepKeepsTheInvariant : Prop :=
  ∀ s : State, s.ok = true → ∃ t, step s = .next t ∧ t.ok = true

/-- R141, R263: the strong pull-up and the engine's low drive never overlap. -/
def Obligations.PullUpNeverMeetsLowDrive : Prop :=
  ∀ s : State, s.ok = true → ¬ (s.owOut = false ∧ s.spuOut = true)

/-! ### Bit transport (40_bit_transport.md) -/

/-- R147: RESET. -/
def Obligations.ResetReportsPresence : Prop :=
  FormatN 0x01 .reset ∧
  ∀ s : State, ∃ t, exec .reset s = .next t ∧
    Ended (if s.sampleAt 0 then .busAbsent else .ok) 0 t ∧
    Ran s t [.reset (!s.sampleAt 0)] 1 960 ∧
    t.presence = !s.sampleAt 0 ∧ t.spul = false ∧ sameExcept (mayWrite .reset) s t

/-- R148: READ_BIT. -/
def Obligations.ReadBitStoresTheSample : Prop :=
  FormatN 0x02 .readBit ∧
  ∀ s : State, ∃ t, exec .readBit s = .next t ∧ Ended .ok 0 t ∧
    Ran s t [.read (s.sampleAt 0)] 1 48 ∧
    t.data.toNat = (s.sampleAt 0).toNat ∧ t.spul = false ∧ sameExcept (mayWrite .readBit) s t

/-- R149: WRITE_BIT b. -/
def Obligations.WriteBitSendsTheBit : Prop :=
  FormatF 0x03 .writeBit ∧
  ∀ (b : Bool) (s : State), ∃ t, exec (.writeBit b) s = .next t ∧ Ended .ok 0 t ∧
    Ran s t [.write b] 0 64 ∧ t.spul = false ∧ sameExcept (mayWrite (.writeBit b)) s t

/-- R150, R145: READ_BYTE assembles eight read slots, bit 0 first. -/
def Obligations.ReadByteAssemblesEightSamples : Prop :=
  FormatN 0x04 .readByte ∧
  ∀ s : State, ∃ t, exec .readByte s = .next t ∧ Ended .ok 0 t ∧
    Ran s t (rxSlots s 0 8) 8 384 ∧ AssembledFrom s 0 t.data ∧ t.spul = false ∧
    sameExcept (mayWrite .readByte) s t

/-- R151, R146: WRITE_BYTE v sends eight write slots, bit 0 first. -/
def Obligations.WriteByteSendsEightBits : Prop :=
  FormatI 0x05 .writeByte ∧
  ∀ (v : Byte) (s : State), ∃ t, exec (.writeByte v) s = .next t ∧ Ended .ok 0 t ∧
    Ran s t ((List.range 8).map fun j => .write (v.getLsbD j)) 0 512 ∧ t.spul = false ∧
    sameExcept (mayWrite (.writeByte v)) s t

/-- R152: READ_BYTES n fills BUF[0..n−1] and leaves BUF[n..8]; a count outside 1 to 9 ends it before any bus
activity. -/
def Obligations.ReadBytesFillsTheBuffer : Prop :=
  FormatC 0x06 .readBytes ∧
  (∀ (n : Byte) (s : State), 1 ≤ n.toNat → n.toNat ≤ 9 →
    ∃ t, exec (.readBytes n) s = .next t ∧ Ended .ok 0 t ∧
      Ran s t (rxSlots s 0 (8 * n.toNat)) (8 * n.toNat) (384 * n.toNat) ∧
      (∀ k, k < n.toNat → AssembledFrom s (8 * k) (byteAt t.buf k)) ∧
      (∀ k, n.toNat ≤ k → byteAt t.buf k = byteAt s.buf k) ∧
      t.spul = false ∧ sameExcept (mayWrite (.readBytes n)) s t) ∧
  (∀ (n : Byte) (s : State), n.toNat = 0 ∨ 9 < n.toNat →
    ∃ t, exec (.readBytes n) s = .next t ∧ Ended .invalidArgument 3 t ∧ sameExcept endFields s t)

/-- R153: WRITE_BYTES n sends BUF[0..n−1], each bit 0 first; a count outside 1 to 9 ends it before any bus
activity. -/
def Obligations.WriteBytesSendsTheBuffer : Prop :=
  FormatC 0x07 .writeBytes ∧
  (∀ (n : Byte) (s : State), 1 ≤ n.toNat → n.toNat ≤ 9 →
    ∃ t, exec (.writeBytes n) s = .next t ∧ Ended .ok 0 t ∧
      Ran s t (txSlots ((List.range n.toNat).map fun k => byteAt s.buf k)) 0 (512 * n.toNat) ∧
      t.spul = false ∧ sameExcept (mayWrite (.writeBytes n)) s t) ∧
  (∀ (n : Byte) (s : State), n.toNat = 0 ∨ 9 < n.toNat →
    ∃ t, exec (.writeBytes n) s = .next t ∧ Ended .invalidArgument 3 t ∧ sameExcept endFields s t)

/-- R160, R142 to R144, R155, R157: over the boundaries of a primitive, from a released line, `ow_out` and `crit`
follow the segments of the table, and `ow_in` is looked at once, at boundary 540 of a reset slot and 8 of a
read slot. -/
def Obligations.SlotWaveformsFollowTheTable : Prop :=
  SlotKind.reset.segments =
    [⟨0, 480, false, false⟩, ⟨480, 540, true, true⟩, ⟨540, 960, true, false⟩] ∧
  SlotKind.read.segments = [⟨0, 2, false, true⟩, ⟨2, 8, true, true⟩, ⟨8, 48, true, false⟩] ∧
  (SlotKind.write true).segments = [⟨0, 2, false, true⟩, ⟨2, 62, true, true⟩, ⟨62, 64, true, false⟩] ∧
  (SlotKind.write false).segments = [⟨0, 62, false, true⟩, ⟨62, 64, true, false⟩] ∧
  SlotKind.gap.segments = [⟨0, 1, true, false⟩] ∧
  SlotKind.reset.sampleBoundary = some 540 ∧ SlotKind.read.sampleBoundary = some 8 ∧
  (∀ (p : Prim) (s : State) (n : Nat), s.owOut = true → s.crit = false →
    n < (p.slotKind s).length s →
    ((afterBoundary p n s).owOut, (afterBoundary p n s).crit) = (p.slotKind s).levelsAt n ∧
    (afterBoundary p n s).line = s.line.drop ((p.slotKind s).samplesBy n) ∧
    (p = .prologue → (afterBoundary p n s).spuOut = false))

/-- R352, R289, R140, R356: a bus-active command at tick level, over any spacing of `us_tick` pulses, is the same
command at slot level: BUSY holds until its P + length pulses after boundary 0 have passed, and then the state
is the one `exec` answers. Where a running command's partial results stand is the model's own (log 11). -/
def Obligations.TickLevelRunEqualsSlotLevel : Prop :=
  ∀ (s t : State) (w : Word) (i : Instr) (u : Bool) (cs : List Cycle) (rest : List Input),
    s.busy = false → s.idleOk = true → decode w = .ok i → busActive i = true →
    refusedAtAcceptance i s = false →
    s.inputs = .clk ⟨false, u, some (.write 0x00 w)⟩ :: (cs.map Input.clk ++ rest) →
    (∀ c ∈ cs, c.rst = false ∧ c.host = none) →
    exec i (accept w s) = .next t →
    (t.ticks < s.ticks + cs.countP (fun c => c.usTick) →
      core.run (cs.length + 1) s = .next { t with inputs := rest, hRdata := none }) ∧
    (s.ticks + cs.countP (fun c => c.usTick) ≤ t.ticks →
      ∃ r : State, core.run (cs.length + 1) s = .next r ∧ r.busy = true)

/-- R283: a non-bus command, and one that ends on an acceptance check, is atomic: over N_CYC edges BUSY reads 1 and no
register has changed, then the state is the one `exec` answers; ports, SPUL and samples of `ow_in` are left
alone and no tick passes. For every value of the open N_CYC (log 5:
the free value Config.nCyc). -/
def Obligations.NonBusCommandsAreAtomic : Prop :=
  ∀ (s t : State) (w : Word) (u : Bool) (cs : List Cycle) (rest : List Input),
    s.busy = false → s.idleOk = true →
    (∀ i, decode w = .ok i → busActive i = false ∨ refusedAtAcceptance i s = true) →
    s.inputs = .clk ⟨false, u, some (.write 0x00 w)⟩ :: (cs.map Input.clk ++ rest) →
    (∀ c ∈ cs, c.rst = false ∧ c.host = none) →
    command w s = .next t →
    sameExcept [.cause, .info, .data, .buf, .rom, .srom, .ldisc, .crc, .tnum, .tden, .tc100, .res, .found,
      .tvalid] s t ∧
    (Config.nCyc ≤ cs.length →
      core.run (cs.length + 1) s = .next { t with inputs := rest, hRdata := none }) ∧
    (cs.length < Config.nCyc →
      ∃ r : State, core.run (cs.length + 1) s = .next r ∧ r.busy = true ∧
        sameExcept [.busy, .opc, .arg, .hold, .inputs, .hRdata] s r)

/-! ### CRC8 (41_crc8.md) -/

/-- R181, R182: the two tables are `upd` of each nibble, and the table step equals the shift register for every
accumulator and byte. -/
def Obligations.CrcTableStepEqualsShiftRegister : Prop :=
  (∀ n, n < 16 → crcTable1.getD n 0 = crcUpdate 0 (BitVec.ofNat 8 n) ∧
    crcTable2.getD n 0 = crcUpdate 0 (BitVec.ofNat 8 n <<< 4)) ∧
  ∀ acc v : Byte, crcUpdateTable acc v = crcUpdate acc v

/-- R184: the self-checking property, for every byte sequence. -/
def Obligations.CrcOfDataWithItsCrcIsZero : Prop :=
  ∀ d : List Byte, crc8 (d ++ [crc8 d]) = 0

/-- R189: linearity of the update; runs of zeros check, all-ones do not. -/
def Obligations.CrcUpdateIsLinear : Prop :=
  (∀ a b : Byte, crcUpdate (a ^^^ b) 0 = crcUpdate a 0 ^^^ crcUpdate b 0) ∧
  (∀ a v : Byte, crcUpdate a v = crcUpdate (a ^^^ v) 0) ∧
  (∀ n : Nat, crc8 (List.replicate n 0x00) = 0) ∧
  crc8 (List.replicate 9 0xFF) = 0x63 ∧ crc8 (List.replicate 8 0xFF) = 0xC9

/-- R244 (d): one flipped bit of a sequence that checks makes its CRC nonzero. -/
def Obligations.CrcSeesEverySingleBitFlip : Prop :=
  ∀ (d : List Byte) (k j : Nat), crc8 d = 0 → k < d.length → j < 8 →
    crc8 (d.set k (d.getD k 0 ^^^ (1#8 <<< j))) ≠ 0

/-- R185, R186: CRC_CLR and CRC_UPD v. -/
def Obligations.CrcClearAndUpdateCommands : Prop :=
  FormatN 0x10 .crcClr ∧ FormatI 0x11 .crcUpd ∧
  (∀ s : State, ∃ t, exec .crcClr s = .next t ∧ Ended .ok 0 t ∧ t.crc = 0x00 ∧
    t.crcz = true ∧ sameExcept (.crc :: endFields) s t) ∧
  (∀ (v : Byte) (s : State), ∃ t, exec (.crcUpd v) s = .next t ∧ Ended .ok 0 t ∧
    t.crc = crcUpdate s.crc v ∧ (v = s.crc → t.crc = 0x00) ∧ sameExcept (.crc :: endFields) s t)

/-- R187: CRC_BUF n, from CRC = 0x00 and not from the old CRC; a bad count leaves CRC. -/
def Obligations.CrcBufChecksTheBuffer : Prop :=
  FormatC 0x12 .crcBuf ∧
  (∀ (n : Byte) (s : State), 1 ≤ n.toNat → n.toNat ≤ 9 →
    ∃ t, exec (.crcBuf n) s = .next t ∧ Ended .ok 0 t ∧
      t.crc = ((List.range n.toNat).map fun k => byteAt s.buf k).foldl crcUpdate 0x00 ∧
      sameExcept (.crc :: endFields) s t) ∧
  (∀ (n : Byte) (s : State), n.toNat = 0 ∨ 9 < n.toNat →
    ∃ t, exec (.crcBuf n) s = .next t ∧ Ended .invalidArgument 3 t ∧ sameExcept endFields s t)

/-- R188: CRC_ROM S, over ROM or SROM; never a ChecksumFault; the all-zero ROM gives 0. -/
def Obligations.CrcRomChecksARom : Prop :=
  FormatF 0x13 .crcRom ∧
  (∀ (b : Bool) (s : State), ∃ t, exec (.crcRom b) s = .next t ∧ Ended .ok 0 t ∧
    t.crc = ((List.range 8).map fun k => byteAt (if b then s.srom else s.rom) k).foldl crcUpdate 0x00 ∧
    ((∀ k, k < 8 → byteAt (if b then s.srom else s.rom) k = 0x00) → t.crcz = true) ∧
    sameExcept (.crc :: endFields) s t)

/-! ### ROM search (42_rom_search.md) -/

/-- R206: SEARCH_INIT. -/
def Obligations.SearchInitRestartsTheScan : Prop :=
  FormatN 0x20 .searchInit ∧
  ∀ s : State, ∃ t, exec .searchInit s = .next t ∧ Ended .ok 0 t ∧
    (∀ k, k < 8 → byteAt t.srom k = 0x00) ∧ t.ldisc.toNat = 65 ∧ t.found = false ∧
    t.sdone = false ∧ sameExcept ([.srom, .ldisc, .found] ++ endFields) s t

/-- R212: SEARCH_NEXT with LDISC = 0 is refused. -/
def Obligations.SearchAfterTheEndIsRefused : Prop :=
  ∀ s : State, s.ldisc = 0 →
    ∃ t, exec .searchNext s = .next t ∧ Ended .invalidArgument 5 t ∧ sameExcept endFields s t

/-- R209: SEARCH_NEXT without presence ends the scan: BusAbsent, FOUND = 0, SROM unchanged, LDISC = 0. -/
def Obligations.SearchWithoutPresenceEndsTheScan : Prop :=
  ∀ s : State, s.ldisc ≠ 0 → s.sampleAt 0 = true →
    ∃ t, exec .searchNext s = .next t ∧ EndedAbsent [.found, .ldisc] s t ∧
      t.found = false ∧ t.ldisc = 0 ∧ t.sdone = true ∧ t.srom = s.srom

/-- R208, R210, R293: both read slots of a position 1, for the first time at position i: the command ends after them
without the write slot, with INFO = i; SROM and LDISC are as before, FOUND = 0. -/
def Obligations.SearchWithoutAnswerKeepsTheScan : Prop :=
  ∀ (s : State) (i : Nat), s.ldisc ≠ 0 → s.sampleAt 0 = false → 1 ≤ i → i ≤ 64 →
    idSample s i = true → compSample s i = true →
    (∀ j, i < j → j ≤ 64 → ¬ (idSample s j = true ∧ compSample s j = true)) →
    ∃ t, exec .searchNext s = .next t ∧ Ended .busCollisionFault (BitVec.ofNat 7 i) t ∧
      Ran s t (.reset true :: txSlots [config.cmdSearchRom] ++ positionsDown s (64 - i) ++
        [.read true, .read true]) (1 + 2 * (64 - i) + 2) (1568 + 160 * (64 - i)) ∧
      t.srom = s.srom ∧ t.ldisc = s.ldisc ∧ t.found = false ∧ t.presence = true ∧
      t.spul = false ∧ sameExcept (mayWrite .searchNext) s t

/-- R207, R203, R204, R205, R211, R217: a SEARCH_NEXT whose every position is answered visits 64 positions, writes at each
the agreed bit or at a collision the bit of the branch rule (`choiceAt`), and commits: SROM is the path, LDISC
the last position at which branch 1 was taken at a collision, 0 if none. -/
def Obligations.SearchFollowsTheBranchRule : Prop :=
  FormatN 0x21 .searchNext ∧
  ∀ s : State, s.ldisc ≠ 0 → s.sampleAt 0 = false →
    (∀ i, 1 ≤ i → i ≤ 64 → ¬ (idSample s i = true ∧ compSample s i = true)) →
    ∃ t, exec .searchNext s = .next t ∧ Ended .ok 0 t ∧
      Ran s t (.reset true :: txSlots [config.cmdSearchRom] ++ positionsDown s 64) 129 11712 ∧
      t.presence = true ∧ t.found = true ∧ t.spul = false ∧
      (∀ i, 1 ≤ i → i ≤ 64 → romBit t.srom i =
        if idSample s i = false ∧ compSample s i = false then
          decide (s.ldisc.toNat > i) || (romBit s.srom i && decide (s.ldisc.toNat ≠ i))
        else idSample s i) ∧
      ((t.ldisc = 0 ∧ ∀ i, 1 ≤ i → i ≤ 64 → ¬ (collides s i = true ∧ choiceAt s i = true)) ∨
        (1 ≤ t.ldisc.toNat ∧ t.ldisc.toNat ≤ 64 ∧
          collides s t.ldisc.toNat = true ∧ choiceAt s t.ldisc.toNat = true ∧
          ∀ i, 1 ≤ i → i < t.ldisc.toNat → ¬ (collides s i = true ∧ choiceAt s i = true))) ∧
      sameExcept (mayWrite .searchNext) s t

/-- R214, R201: one iteration against a fixed set of devices with distinct ROMs that answer as R203 says. The first
(LDISC = 65) finds the greatest ROM in wire order; one from a carried state finds the greatest below the last;
LDISC = 0 afterwards exactly if no device is left, and otherwise the state is a carried state again. -/
def Obligations.SearchFindsTheNextDeviceInWireOrder : Prop :=
  ∀ (devs : List Rom) (s t : State), devs.Nodup → devs ≠ [] →
    execSearchNext s = .next t → iterationAnswered devs (newSlots s t) = true →
    (s.ldisc.toNat = 65 ∨ CarriedState devs s) →
    t.cause = .ok ∧ t.found = true ∧ t.srom ∈ devs ∧
      (s.ldisc.toNat = 65 → ∀ d ∈ devs, wireOrder d ≤ wireOrder t.srom) ∧
      (CarriedState devs s → wireOrder t.srom < wireOrder s.srom ∧
        ∀ d ∈ devs, wireOrder d < wireOrder s.srom → wireOrder d ≤ wireOrder t.srom) ∧
      (t.ldisc = 0 ↔ ∀ d ∈ devs, wireOrder t.srom ≤ wireOrder d) ∧
      (t.ldisc ≠ 0 → CarriedState devs t)

/-- R215, R214: SEARCH_INIT and then N SEARCH_NEXT against a fixed set of N ≥ 1 devices with distinct ROMs: N times OK,
each device once, in descending wire order, LDISC = 0 after the N-th and not before, the same on every run.
N = 0: the first ends with BusAbsent and LDISC = 0. -/
def Obligations.SearchEnumeratesEveryDeviceOnce : Prop :=
  (∀ (devs : List Rom) (s₀ s : State) (ts : List State), devs.Nodup → devs ≠ [] →
    exec .searchInit s₀ = .next s → SearchRun devs s ts → ts.length = devs.length →
    (∀ t ∈ ts, t.cause = .ok ∧ t.found = true) ∧
    (ts.map State.srom).Perm devs ∧
    (ts.map fun t => wireOrder t.srom).Pairwise (· > ·) ∧
    (∀ k t, ts[k]? = some t → (t.ldisc = 0 ↔ k + 1 = ts.length)) ∧
    (∀ (s₁ s₂ : State) (us : List State), exec .searchInit s₁ = .next s₂ → SearchRun devs s₂ us →
      us.length = devs.length → us.map State.srom = ts.map State.srom)) ∧
  (∀ (s₀ s t : State), exec .searchInit s₀ = .next s → SearchRun [] s [t] →
    t.cause = .busAbsent ∧ t.ldisc = 0 ∧ t.srom = s.srom ∧ t.found = false)

/-- R213: ROM_TAKE. -/
def Obligations.RomTakeCopiesTheResult : Prop :=
  FormatN 0x22 .romTake ∧
  ∀ s : State, ∃ t, exec .romTake s = .next t ∧ Ended .ok 0 t ∧ t.rom = s.srom ∧
    sameExcept (.rom :: endFields) s t

/-! ### Addressing (43_bus_addressing.md) -/

/-- R233, R234, R231, R232, R235: SELECT sends the match-ROM byte and ROM[0..7], SKIP the skip-ROM byte; without presence
they end after the reset slot. -/
def Obligations.SelectAndSkipSendTheirPrefix : Prop :=
  FormatN 0x30 .select ∧ FormatN 0x31 .skip ∧
  (∀ s : State, s.sampleAt 0 = false →
    ∃ t, exec .select s = .next t ∧ Ended .ok 0 t ∧
      Ran s t (.reset true :: txSlots (config.cmdMatchRom :: (List.range 8).map fun k => byteAt s.rom k))
        1 5568 ∧
      t.presence = true ∧ t.spul = false ∧ sameExcept (mayWrite .select) s t) ∧
  (∀ s : State, s.sampleAt 0 = false →
    ∃ t, exec .skip s = .next t ∧ Ended .ok 0 t ∧
      Ran s t (.reset true :: txSlots [config.cmdSkipRom]) 1 1472 ∧
      t.presence = true ∧ t.spul = false ∧ sameExcept (mayWrite .skip) s t) ∧
  (∀ s : State, s.sampleAt 0 = true →
    (∃ t, exec .select s = .next t ∧ EndedAbsent [] s t) ∧
    (∃ t, exec .skip s = .next t ∧ EndedAbsent [] s t))

/-! ### DS18x20 exchanges (44_ds18x20.md) -/

/-- R241, R263: CONVERT BCAST. -/
def Obligations.ConvertStartsAConversion : Prop :=
  FormatF 0x40 .convert ∧
  (∀ (b : Bool) (s : State), s.sampleAt 0 = false →
    ∃ t, exec (.convert b) s = .next t ∧ Ended .ok 0 t ∧
      Ran s t (.reset true :: txSlots (addressBytes b s.rom ++ [config.cmdConvertT])) 1
        (if b then 1984 else 6080) ∧
      t.presence = true ∧ t.spul = s.spuEn ∧ sameExcept (mayWrite (.convert b)) s t) ∧
  (∀ (b : Bool) (s : State), s.sampleAt 0 = true →
    ∃ t, exec (.convert b) s = .next t ∧ EndedAbsent [] s t)

/-- R243, R294: READ_SPAD. -/
def Obligations.ReadScratchpadChecksNineBytes : Prop :=
  FormatN 0x41 .readSpad ∧
  (∀ s : State, s.sampleAt 0 = false →
    ∃ t, exec .readSpad s = .next t ∧
      Ended (if t.crc = 0 then .ok else .checksumFault) 0 t ∧
      Ran s t (.reset true :: txSlots (addressBytes false s.rom ++ [config.cmdReadScratch]) ++
        rxSlots s 1 72) 73 9536 ∧
      (∀ k, k < 9 → AssembledFrom s (1 + 8 * k) (byteAt t.buf k)) ∧
      t.crc = crc8 ((List.range 9).map fun k => byteAt t.buf k) ∧
      t.tvalid = false ∧ t.presence = true ∧ t.spul = false ∧ sameExcept (mayWrite .readSpad) s t) ∧
  (∀ s : State, s.sampleAt 0 = true →
    ∃ t, exec .readSpad s = .next t ∧ EndedAbsent [.tvalid] s t ∧ t.tvalid = false)

/-- R245, R263: WRITE_SPAD. -/
def Obligations.WriteScratchpadSendsThreeBytes : Prop :=
  FormatN 0x42 .writeSpad ∧
  (∀ s : State, s.sampleAt 0 = false →
    ∃ t, exec .writeSpad s = .next t ∧ Ended .ok 0 t ∧
      Ran s t (.reset true :: txSlots (addressBytes false s.rom ++
        [config.cmdWriteScratch, byteAt s.buf 2, byteAt s.buf 3, byteAt s.buf 4])) 1 7616 ∧
      t.presence = true ∧ t.spul = s.spuEn ∧ sameExcept (mayWrite .writeSpad) s t) ∧
  (∀ s : State, s.sampleAt 0 = true → ∃ t, exec .writeSpad s = .next t ∧ EndedAbsent [] s t)

/-- R259, R110, R260, R263: SET_RES bits writes the configuration byte to BUF[4] before the exchange, also when that ends
with BusAbsent, and sends BUF[2], BUF[3] as they stand; a resolution outside 9 to 12 changes nothing. -/
def Obligations.SetResolutionWritesTheConfiguration : Prop :=
  FormatB 0x45 .setRes ∧
  (∀ (b c : Byte) (s : State),
    (b.toNat = 9 ∧ c = 0x1F ∨ b.toNat = 10 ∧ c = 0x3F ∨ b.toNat = 11 ∧ c = 0x5F ∨
      b.toNat = 12 ∧ c = 0x7F) →
    (s.sampleAt 0 = false →
      ∃ t, exec (.setRes b) s = .next t ∧ Ended .ok 0 t ∧
        Ran s t (.reset true :: txSlots (addressBytes false s.rom ++
          [config.cmdWriteScratch, byteAt s.buf 2, byteAt s.buf 3, c])) 1 7616 ∧
        byteAt t.buf 4 = c ∧ (∀ k, k ≠ 4 → byteAt t.buf k = byteAt s.buf k) ∧
        t.presence = true ∧ t.spul = s.spuEn ∧ sameExcept (mayWrite (.setRes b)) s t) ∧
    (s.sampleAt 0 = true →
      ∃ t, exec (.setRes b) s = .next t ∧ EndedAbsent [.buf] s t ∧
        byteAt t.buf 4 = c ∧ (∀ k, k ≠ 4 → byteAt t.buf k = byteAt s.buf k))) ∧
  (∀ (b : Byte) (s : State), b.toNat < 9 ∨ 12 < b.toNat →
    ∃ t, exec (.setRes b) s = .next t ∧ Ended .invalidArgument 4 t ∧ sameExcept endFields s t)

/-- R262: POWERMODE BCAST. -/
def Obligations.PowerModeReadsOneBit : Prop :=
  FormatF 0x46 .powerMode ∧
  (∀ (b : Bool) (s : State), s.sampleAt 0 = false →
    ∃ t, exec (.powerMode b) s = .next t ∧ Ended .ok 0 t ∧
      Ran s t (.reset true :: txSlots (addressBytes b s.rom ++ [config.cmdReadPower]) ++
        [.read (s.sampleAt 1)]) 2 (if b then 2032 else 6128) ∧
      t.pmode = s.sampleAt 1 ∧ t.presence = true ∧ t.spul = false ∧
      sameExcept (mayWrite (.powerMode b)) s t) ∧
  (∀ (b : Bool) (s : State), s.sampleAt 0 = true →
    ∃ t, exec (.powerMode b) s = .next t ∧ EndedAbsent [] s t)

/-- R253, R255, R251: DECODE of an Extended12Bit scratchpad: all 16 bits, two's complement, over 16; TC100 is the floor of
a hundred times that. -/
def Obligations.DecodeOfAnExtendedScratchpad : Prop :=
  FormatN 0x43 .decodeTemp ∧
  ∀ s : State, byteAt s.rom 0 = 0x22 ∨ byteAt s.rom 0 = 0x28 →
    ∃ t, exec .decodeTemp s = .next t ∧ Ended .ok 0 t ∧
      (let raw : Int := 256 * (byteAt s.buf 1).toNat + (byteAt s.buf 0).toNat
       t.tnum.toInt = if 32768 ≤ raw then raw - 65536 else raw) ∧
      t.tden.toNat = 16 ∧
      t.tc100.toInt * 16 ≤ 100 * t.tnum.toInt ∧ 100 * t.tnum.toInt < (t.tc100.toInt + 1) * 16 ∧
      t.tc100.toInt * 4 ≤ 25 * t.tnum.toInt ∧ 25 * t.tnum.toInt < (t.tc100.toInt + 1) * 4 ∧
      t.tvalid = true ∧ sameExcept ([.tnum, .tden, .tc100, .tvalid] ++ endFields) s t

/-- R254, R255, R251: DECODE of a Legacy9Bit scratchpad with `count_per_degree` not 0: the exact rational of the
documented formula, the quarter kept; TC100 is the floor of a hundred times that. -/
def Obligations.DecodeOfALegacyScratchpad : Prop :=
  ∀ s : State, byteAt s.rom 0 = 0x10 → byteAt s.buf 7 ≠ 0 →
    ∃ t, exec .decodeTemp s = .next t ∧ Ended .ok 0 t ∧
      (let lsb : Int := (byteAt s.buf 0).toNat
       let cr : Int := (byteAt s.buf 6).toNat
       let cpd : Int := (byteAt s.buf 7).toNat
       let ip : Int := if byteAt s.buf 1 ≠ 0 then lsb / 2 + 128 - 256 else lsb / 2
       t.tnum.toInt = (4 * ip - 1) * cpd + 4 * (cpd - cr) ∧
       (t.tden.toNat : Int) = 4 * cpd ∧
       (t.tnum.toInt : Rat) / (t.tden.toNat : Rat) =
         (ip : Rat) - 1 / 4 + ((cpd : Rat) - (cr : Rat)) / (cpd : Rat) ∧
       t.tc100.toInt * (4 * cpd) ≤ 100 * t.tnum.toInt ∧
       100 * t.tnum.toInt < (t.tc100.toInt + 1) * (4 * cpd) ∧
       t.tc100.toInt = 100 * ip - 25 + Int.fdiv (100 * (cpd - cr)) cpd) ∧
      t.tvalid = true ∧ sameExcept ([.tnum, .tden, .tc100, .tvalid] ++ endFields) s t

/-- R295, R257, R302, R251: DECODE of an unknown family is UnsupportedFamily, examined first; of a Legacy9Bit scratchpad
with BUF[7] = 0 it is InvalidArgument 6. TVALID is cleared, TNUM, TDEN and TC100 keep their values. -/
def Obligations.DecodeWithoutAReading : Prop :=
  (∀ s : State, byteAt s.rom 0 ≠ 0x10 → byteAt s.rom 0 ≠ 0x22 → byteAt s.rom 0 ≠ 0x28 →
    ∃ t, exec .decodeTemp s = .next t ∧ Ended .unsupportedFamily 0 t ∧ t.tvalid = false ∧
      sameExcept (.tvalid :: endFields) s t) ∧
  (∀ s : State, byteAt s.rom 0 = 0x10 → byteAt s.buf 7 = 0 →
    ∃ t, exec .decodeTemp s = .next t ∧ Ended .invalidArgument 6 t ∧ t.tvalid = false ∧
      sameExcept (.tvalid :: endFields) s t)

/-- R59: the ranges of a reading that DECODE produces. -/
def Obligations.DecodedValuesStayInRange : Prop :=
  ∀ s t : State, exec .decodeTemp s = .next t → t.cause = .ok →
    -204800 ≤ t.tc100.toInt ∧ t.tc100.toInt ≤ 204793 ∧
    (byteAt s.rom 0 = 0x10 → -130815 ≤ t.tnum.toInt ∧ t.tnum.toInt ≤ 130305 ∧
      4 ≤ t.tden.toNat ∧ t.tden.toNat ≤ 1020) ∧
    (byteAt s.rom 0 ≠ 0x10 → -32768 ≤ t.tnum.toInt ∧ t.tnum.toInt ≤ 32767 ∧ t.tden.toNat = 16)

/-- R258, R110: GET_RES. -/
def Obligations.GetResolutionReadsBits6And5 : Prop :=
  FormatN 0x44 .getRes ∧
  ∀ s : State, ∃ t, exec .getRes s = .next t ∧ Ended .ok 0 t ∧
    t.res.toNat = (byteAt s.buf 4).toNat / 32 % 4 + 9 ∧ sameExcept (.res :: endFields) s t

/-- R261: SET_RES b, then a READ_SPAD that returns in BUF[4] the configuration byte SET_RES sent, then GET_RES gives
RES = b, for b = 9 to 12. -/
def Obligations.ResolutionRoundTrip : Prop :=
  ∀ (b : Byte) (s t u v : State), 9 ≤ b.toNat → b.toNat ≤ 12 →
    exec (.setRes b) s = .next t → exec .readSpad u = .next v → byteAt v.buf 4 = byteAt t.buf 4 →
    ∃ x, exec .getRes v = .next x ∧ x.res.toNat = b.toNat

end OwcoreStatements
end

