-- ==== Sys2Proof/Laws/Decode.lean ====
section
/-! SUPPORT. The fields of a command word (30_encoding.md R100) and what the decoder makes of a word given
by its fields. -/

namespace Sys2Proof

@[simp] theorem commandWord_high (opc arg : Byte) : (commandWord opc arg).extractLsb' 16 16 = 0 := by
  apply BitVec.eq_of_getLsbD_eq
  intro i hi
  have h1 : opc.getLsbD (16 + i) = false := BitVec.getLsbD_of_ge _ _ (by omega)
  have h2 : arg.getLsbD (16 + i - 8) = false := BitVec.getLsbD_of_ge _ _ (by omega)
  simp [commandWord, h1, h2]

@[simp] theorem wordOpc_commandWord (opc arg : Byte) : wordOpc (commandWord opc arg) = opc := by
  apply BitVec.eq_of_getLsbD_eq
  intro i hi
  simp [wordOpc, commandWord, BitVec.getLsbD_or, BitVec.getLsbD_shiftLeft, hi]
  omega

@[simp] theorem wordArg_commandWord (opc arg : Byte) : wordArg (commandWord opc arg) = arg := by
  apply BitVec.eq_of_getLsbD_eq
  intro i hi
  have h2 : 8 + i < 32 := by omega
  simp [wordArg, commandWord, hi, h2]

/-- A word is the word of its fields if its high half is 0. -/
theorem commandWord_fields (w : Word) (h : w.extractLsb' 16 16 = 0) :
    commandWord (wordOpc w) (wordArg w) = w := by
  apply BitVec.eq_of_getLsbD_eq
  intro i hi
  by_cases h8 : i < 8
  · simp [commandWord, wordOpc, hi, h8]
  · by_cases h16 : i < 16
    · have e : 8 + (i - 8) = i := by omega
      have h3 : i - 8 < 32 := by omega
      have h4 : i - 8 < 8 := by omega
      simp only [commandWord, wordOpc, wordArg, BitVec.getLsbD_or, BitVec.getLsbD_setWidth,
        BitVec.truncate_eq_setWidth, BitVec.getLsbD_shiftLeft, BitVec.getLsbD_extractLsb', hi, h8, h3, h4, e,
        decide_true, decide_false, Bool.true_and, Bool.and_true, Bool.false_and, Bool.and_false,
        Bool.false_or, Bool.not_false]
    · have h5 := congrArg (fun v => v.getLsbD (i - 16)) h
      have h6 : i - 16 < 16 := by omega
      have e : 16 + (i - 16) = i := by omega
      simp only [BitVec.getLsbD_extractLsb', h6, e, decide_true, Bool.true_and] at h5
      have h7 : ¬ i - 8 < 8 := by omega
      rw [h5]
      simp [commandWord, wordOpc, wordArg, h8, h7]

/-- R104 from step (2) on. -/
theorem decode_commandWord (opc arg : Byte) :
    decode (commandWord opc arg) =
      match opRow? opc with
      | none => .error .undefinedOpcode
      | some r => r.shape.operand arg := by
  simp only [decode, commandWord_high, wordOpc_commandWord, wordArg_commandWord]
  rfl

/-- Two words with a zero high half and the same fields are equal. -/
theorem decode_eq_fields (w : Word) (h : w.extractLsb' 16 16 = 0) :
    decode w = decode (commandWord (wordOpc w) (wordArg w)) := by rw [commandWord_fields w h]

end Sys2Proof
end

