-- ==== Sys2Proof/Laws/Setters.lean ====
section
/-! SUPPORT. One lemma per field of State for each single-register update of the machine. -/

namespace Sys2Proof.Machine

/-! ### setOwOut (R23) -/

@[simp] theorem setOwOut_owOut (b : Bool) (s : State) : (setOwOut b s).owOut = b := rfl
@[simp] theorem setOwOut_crit (b : Bool) (s : State) : (setOwOut b s).crit = s.crit := rfl
@[simp] theorem setOwOut_busy (b : Bool) (s : State) : (setOwOut b s).busy = s.busy := rfl
@[simp] theorem setOwOut_hRdata (b : Bool) (s : State) : (setOwOut b s).hRdata = s.hRdata := rfl
@[simp] theorem setOwOut_spul (b : Bool) (s : State) : (setOwOut b s).spul = s.spul := rfl
@[simp] theorem setOwOut_presence (b : Bool) (s : State) : (setOwOut b s).presence = s.presence := rfl
@[simp] theorem setOwOut_found (b : Bool) (s : State) : (setOwOut b s).found = s.found := rfl
@[simp] theorem setOwOut_pmode (b : Bool) (s : State) : (setOwOut b s).pmode = s.pmode := rfl
@[simp] theorem setOwOut_tvalid (b : Bool) (s : State) : (setOwOut b s).tvalid = s.tvalid := rfl
@[simp] theorem setOwOut_cause (b : Bool) (s : State) : (setOwOut b s).cause = s.cause := rfl
@[simp] theorem setOwOut_info (b : Bool) (s : State) : (setOwOut b s).info = s.info := rfl
@[simp] theorem setOwOut_spuEn (b : Bool) (s : State) : (setOwOut b s).spuEn = s.spuEn := rfl
@[simp] theorem setOwOut_data (b : Bool) (s : State) : (setOwOut b s).data = s.data := rfl
@[simp] theorem setOwOut_buf (b : Bool) (s : State) : (setOwOut b s).buf = s.buf := rfl
@[simp] theorem setOwOut_rom (b : Bool) (s : State) : (setOwOut b s).rom = s.rom := rfl
@[simp] theorem setOwOut_srom (b : Bool) (s : State) : (setOwOut b s).srom = s.srom := rfl
@[simp] theorem setOwOut_ldisc (b : Bool) (s : State) : (setOwOut b s).ldisc = s.ldisc := rfl
@[simp] theorem setOwOut_crc (b : Bool) (s : State) : (setOwOut b s).crc = s.crc := rfl
@[simp] theorem setOwOut_tnum (b : Bool) (s : State) : (setOwOut b s).tnum = s.tnum := rfl
@[simp] theorem setOwOut_tden (b : Bool) (s : State) : (setOwOut b s).tden = s.tden := rfl
@[simp] theorem setOwOut_tc100 (b : Bool) (s : State) : (setOwOut b s).tc100 = s.tc100 := rfl
@[simp] theorem setOwOut_res (b : Bool) (s : State) : (setOwOut b s).res = s.res := rfl
@[simp] theorem setOwOut_opc (b : Bool) (s : State) : (setOwOut b s).opc = s.opc := rfl
@[simp] theorem setOwOut_arg (b : Bool) (s : State) : (setOwOut b s).arg = s.arg := rfl
@[simp] theorem setOwOut_stepIx (b : Bool) (s : State) : (setOwOut b s).stepIx = s.stepIx := rfl
@[simp] theorem setOwOut_byteIx (b : Bool) (s : State) : (setOwOut b s).byteIx = s.byteIx := rfl
@[simp] theorem setOwOut_bitIx (b : Bool) (s : State) : (setOwOut b s).bitIx = s.bitIx := rfl
@[simp] theorem setOwOut_shreg (b : Bool) (s : State) : (setOwOut b s).shreg = s.shreg := rfl
@[simp] theorem setOwOut_tcnt (b : Bool) (s : State) : (setOwOut b s).tcnt = s.tcnt := rfl
@[simp] theorem setOwOut_wrom (b : Bool) (s : State) : (setOwOut b s).wrom = s.wrom := rfl
@[simp] theorem setOwOut_pos (b : Bool) (s : State) : (setOwOut b s).pos = s.pos := rfl
@[simp] theorem setOwOut_ndisc (b : Bool) (s : State) : (setOwOut b s).ndisc = s.ndisc := rfl
@[simp] theorem setOwOut_idb (b : Bool) (s : State) : (setOwOut b s).idb = s.idb := rfl
@[simp] theorem setOwOut_cmpb (b : Bool) (s : State) : (setOwOut b s).cmpb = s.cmpb := rfl
@[simp] theorem setOwOut_hold (b : Bool) (s : State) : (setOwOut b s).hold = s.hold := rfl
@[simp] theorem setOwOut_inputs (b : Bool) (s : State) : (setOwOut b s).inputs = s.inputs := rfl
@[simp] theorem setOwOut_line (b : Bool) (s : State) : (setOwOut b s).line = s.line := rfl
@[simp] theorem setOwOut_draws (b : Bool) (s : State) : (setOwOut b s).draws = s.draws := rfl
@[simp] theorem setOwOut_readDraws (b : Bool) (s : State) : (setOwOut b s).readDraws = s.readDraws := rfl
@[simp] theorem setOwOut_trace (b : Bool) (s : State) : (setOwOut b s).trace = s.trace := rfl
@[simp] theorem setOwOut_ticks (b : Bool) (s : State) : (setOwOut b s).ticks = s.ticks := rfl

/-! ### setCrit (R25) -/

@[simp] theorem setCrit_owOut (b : Bool) (s : State) : (setCrit b s).owOut = s.owOut := rfl
@[simp] theorem setCrit_crit (b : Bool) (s : State) : (setCrit b s).crit = b := rfl
@[simp] theorem setCrit_busy (b : Bool) (s : State) : (setCrit b s).busy = s.busy := rfl
@[simp] theorem setCrit_hRdata (b : Bool) (s : State) : (setCrit b s).hRdata = s.hRdata := rfl
@[simp] theorem setCrit_spul (b : Bool) (s : State) : (setCrit b s).spul = s.spul := rfl
@[simp] theorem setCrit_presence (b : Bool) (s : State) : (setCrit b s).presence = s.presence := rfl
@[simp] theorem setCrit_found (b : Bool) (s : State) : (setCrit b s).found = s.found := rfl
@[simp] theorem setCrit_pmode (b : Bool) (s : State) : (setCrit b s).pmode = s.pmode := rfl
@[simp] theorem setCrit_tvalid (b : Bool) (s : State) : (setCrit b s).tvalid = s.tvalid := rfl
@[simp] theorem setCrit_cause (b : Bool) (s : State) : (setCrit b s).cause = s.cause := rfl
@[simp] theorem setCrit_info (b : Bool) (s : State) : (setCrit b s).info = s.info := rfl
@[simp] theorem setCrit_spuEn (b : Bool) (s : State) : (setCrit b s).spuEn = s.spuEn := rfl
@[simp] theorem setCrit_data (b : Bool) (s : State) : (setCrit b s).data = s.data := rfl
@[simp] theorem setCrit_buf (b : Bool) (s : State) : (setCrit b s).buf = s.buf := rfl
@[simp] theorem setCrit_rom (b : Bool) (s : State) : (setCrit b s).rom = s.rom := rfl
@[simp] theorem setCrit_srom (b : Bool) (s : State) : (setCrit b s).srom = s.srom := rfl
@[simp] theorem setCrit_ldisc (b : Bool) (s : State) : (setCrit b s).ldisc = s.ldisc := rfl
@[simp] theorem setCrit_crc (b : Bool) (s : State) : (setCrit b s).crc = s.crc := rfl
@[simp] theorem setCrit_tnum (b : Bool) (s : State) : (setCrit b s).tnum = s.tnum := rfl
@[simp] theorem setCrit_tden (b : Bool) (s : State) : (setCrit b s).tden = s.tden := rfl
@[simp] theorem setCrit_tc100 (b : Bool) (s : State) : (setCrit b s).tc100 = s.tc100 := rfl
@[simp] theorem setCrit_res (b : Bool) (s : State) : (setCrit b s).res = s.res := rfl
@[simp] theorem setCrit_opc (b : Bool) (s : State) : (setCrit b s).opc = s.opc := rfl
@[simp] theorem setCrit_arg (b : Bool) (s : State) : (setCrit b s).arg = s.arg := rfl
@[simp] theorem setCrit_stepIx (b : Bool) (s : State) : (setCrit b s).stepIx = s.stepIx := rfl
@[simp] theorem setCrit_byteIx (b : Bool) (s : State) : (setCrit b s).byteIx = s.byteIx := rfl
@[simp] theorem setCrit_bitIx (b : Bool) (s : State) : (setCrit b s).bitIx = s.bitIx := rfl
@[simp] theorem setCrit_shreg (b : Bool) (s : State) : (setCrit b s).shreg = s.shreg := rfl
@[simp] theorem setCrit_tcnt (b : Bool) (s : State) : (setCrit b s).tcnt = s.tcnt := rfl
@[simp] theorem setCrit_wrom (b : Bool) (s : State) : (setCrit b s).wrom = s.wrom := rfl
@[simp] theorem setCrit_pos (b : Bool) (s : State) : (setCrit b s).pos = s.pos := rfl
@[simp] theorem setCrit_ndisc (b : Bool) (s : State) : (setCrit b s).ndisc = s.ndisc := rfl
@[simp] theorem setCrit_idb (b : Bool) (s : State) : (setCrit b s).idb = s.idb := rfl
@[simp] theorem setCrit_cmpb (b : Bool) (s : State) : (setCrit b s).cmpb = s.cmpb := rfl
@[simp] theorem setCrit_hold (b : Bool) (s : State) : (setCrit b s).hold = s.hold := rfl
@[simp] theorem setCrit_inputs (b : Bool) (s : State) : (setCrit b s).inputs = s.inputs := rfl
@[simp] theorem setCrit_line (b : Bool) (s : State) : (setCrit b s).line = s.line := rfl
@[simp] theorem setCrit_draws (b : Bool) (s : State) : (setCrit b s).draws = s.draws := rfl
@[simp] theorem setCrit_readDraws (b : Bool) (s : State) : (setCrit b s).readDraws = s.readDraws := rfl
@[simp] theorem setCrit_trace (b : Bool) (s : State) : (setCrit b s).trace = s.trace := rfl
@[simp] theorem setCrit_ticks (b : Bool) (s : State) : (setCrit b s).ticks = s.ticks := rfl

/-! ### setSpul (R42) -/

@[simp] theorem setSpul_owOut (b : Bool) (s : State) : (setSpul b s).owOut = s.owOut := rfl
@[simp] theorem setSpul_crit (b : Bool) (s : State) : (setSpul b s).crit = s.crit := rfl
@[simp] theorem setSpul_busy (b : Bool) (s : State) : (setSpul b s).busy = s.busy := rfl
@[simp] theorem setSpul_hRdata (b : Bool) (s : State) : (setSpul b s).hRdata = s.hRdata := rfl
@[simp] theorem setSpul_spul (b : Bool) (s : State) : (setSpul b s).spul = b := rfl
@[simp] theorem setSpul_presence (b : Bool) (s : State) : (setSpul b s).presence = s.presence := rfl
@[simp] theorem setSpul_found (b : Bool) (s : State) : (setSpul b s).found = s.found := rfl
@[simp] theorem setSpul_pmode (b : Bool) (s : State) : (setSpul b s).pmode = s.pmode := rfl
@[simp] theorem setSpul_tvalid (b : Bool) (s : State) : (setSpul b s).tvalid = s.tvalid := rfl
@[simp] theorem setSpul_cause (b : Bool) (s : State) : (setSpul b s).cause = s.cause := rfl
@[simp] theorem setSpul_info (b : Bool) (s : State) : (setSpul b s).info = s.info := rfl
@[simp] theorem setSpul_spuEn (b : Bool) (s : State) : (setSpul b s).spuEn = s.spuEn := rfl
@[simp] theorem setSpul_data (b : Bool) (s : State) : (setSpul b s).data = s.data := rfl
@[simp] theorem setSpul_buf (b : Bool) (s : State) : (setSpul b s).buf = s.buf := rfl
@[simp] theorem setSpul_rom (b : Bool) (s : State) : (setSpul b s).rom = s.rom := rfl
@[simp] theorem setSpul_srom (b : Bool) (s : State) : (setSpul b s).srom = s.srom := rfl
@[simp] theorem setSpul_ldisc (b : Bool) (s : State) : (setSpul b s).ldisc = s.ldisc := rfl
@[simp] theorem setSpul_crc (b : Bool) (s : State) : (setSpul b s).crc = s.crc := rfl
@[simp] theorem setSpul_tnum (b : Bool) (s : State) : (setSpul b s).tnum = s.tnum := rfl
@[simp] theorem setSpul_tden (b : Bool) (s : State) : (setSpul b s).tden = s.tden := rfl
@[simp] theorem setSpul_tc100 (b : Bool) (s : State) : (setSpul b s).tc100 = s.tc100 := rfl
@[simp] theorem setSpul_res (b : Bool) (s : State) : (setSpul b s).res = s.res := rfl
@[simp] theorem setSpul_opc (b : Bool) (s : State) : (setSpul b s).opc = s.opc := rfl
@[simp] theorem setSpul_arg (b : Bool) (s : State) : (setSpul b s).arg = s.arg := rfl
@[simp] theorem setSpul_stepIx (b : Bool) (s : State) : (setSpul b s).stepIx = s.stepIx := rfl
@[simp] theorem setSpul_byteIx (b : Bool) (s : State) : (setSpul b s).byteIx = s.byteIx := rfl
@[simp] theorem setSpul_bitIx (b : Bool) (s : State) : (setSpul b s).bitIx = s.bitIx := rfl
@[simp] theorem setSpul_shreg (b : Bool) (s : State) : (setSpul b s).shreg = s.shreg := rfl
@[simp] theorem setSpul_tcnt (b : Bool) (s : State) : (setSpul b s).tcnt = s.tcnt := rfl
@[simp] theorem setSpul_wrom (b : Bool) (s : State) : (setSpul b s).wrom = s.wrom := rfl
@[simp] theorem setSpul_pos (b : Bool) (s : State) : (setSpul b s).pos = s.pos := rfl
@[simp] theorem setSpul_ndisc (b : Bool) (s : State) : (setSpul b s).ndisc = s.ndisc := rfl
@[simp] theorem setSpul_idb (b : Bool) (s : State) : (setSpul b s).idb = s.idb := rfl
@[simp] theorem setSpul_cmpb (b : Bool) (s : State) : (setSpul b s).cmpb = s.cmpb := rfl
@[simp] theorem setSpul_hold (b : Bool) (s : State) : (setSpul b s).hold = s.hold := rfl
@[simp] theorem setSpul_inputs (b : Bool) (s : State) : (setSpul b s).inputs = s.inputs := rfl
@[simp] theorem setSpul_line (b : Bool) (s : State) : (setSpul b s).line = s.line := rfl
@[simp] theorem setSpul_draws (b : Bool) (s : State) : (setSpul b s).draws = s.draws := rfl
@[simp] theorem setSpul_readDraws (b : Bool) (s : State) : (setSpul b s).readDraws = s.readDraws := rfl
@[simp] theorem setSpul_trace (b : Bool) (s : State) : (setSpul b s).trace = s.trace := rfl
@[simp] theorem setSpul_ticks (b : Bool) (s : State) : (setSpul b s).ticks = s.ticks := rfl

/-! ### setPresence (R39) -/

@[simp] theorem setPresence_owOut (b : Bool) (s : State) : (setPresence b s).owOut = s.owOut := rfl
@[simp] theorem setPresence_crit (b : Bool) (s : State) : (setPresence b s).crit = s.crit := rfl
@[simp] theorem setPresence_busy (b : Bool) (s : State) : (setPresence b s).busy = s.busy := rfl
@[simp] theorem setPresence_hRdata (b : Bool) (s : State) : (setPresence b s).hRdata = s.hRdata := rfl
@[simp] theorem setPresence_spul (b : Bool) (s : State) : (setPresence b s).spul = s.spul := rfl
@[simp] theorem setPresence_presence (b : Bool) (s : State) : (setPresence b s).presence = b := rfl
@[simp] theorem setPresence_found (b : Bool) (s : State) : (setPresence b s).found = s.found := rfl
@[simp] theorem setPresence_pmode (b : Bool) (s : State) : (setPresence b s).pmode = s.pmode := rfl
@[simp] theorem setPresence_tvalid (b : Bool) (s : State) : (setPresence b s).tvalid = s.tvalid := rfl
@[simp] theorem setPresence_cause (b : Bool) (s : State) : (setPresence b s).cause = s.cause := rfl
@[simp] theorem setPresence_info (b : Bool) (s : State) : (setPresence b s).info = s.info := rfl
@[simp] theorem setPresence_spuEn (b : Bool) (s : State) : (setPresence b s).spuEn = s.spuEn := rfl
@[simp] theorem setPresence_data (b : Bool) (s : State) : (setPresence b s).data = s.data := rfl
@[simp] theorem setPresence_buf (b : Bool) (s : State) : (setPresence b s).buf = s.buf := rfl
@[simp] theorem setPresence_rom (b : Bool) (s : State) : (setPresence b s).rom = s.rom := rfl
@[simp] theorem setPresence_srom (b : Bool) (s : State) : (setPresence b s).srom = s.srom := rfl
@[simp] theorem setPresence_ldisc (b : Bool) (s : State) : (setPresence b s).ldisc = s.ldisc := rfl
@[simp] theorem setPresence_crc (b : Bool) (s : State) : (setPresence b s).crc = s.crc := rfl
@[simp] theorem setPresence_tnum (b : Bool) (s : State) : (setPresence b s).tnum = s.tnum := rfl
@[simp] theorem setPresence_tden (b : Bool) (s : State) : (setPresence b s).tden = s.tden := rfl
@[simp] theorem setPresence_tc100 (b : Bool) (s : State) : (setPresence b s).tc100 = s.tc100 := rfl
@[simp] theorem setPresence_res (b : Bool) (s : State) : (setPresence b s).res = s.res := rfl
@[simp] theorem setPresence_opc (b : Bool) (s : State) : (setPresence b s).opc = s.opc := rfl
@[simp] theorem setPresence_arg (b : Bool) (s : State) : (setPresence b s).arg = s.arg := rfl
@[simp] theorem setPresence_stepIx (b : Bool) (s : State) : (setPresence b s).stepIx = s.stepIx := rfl
@[simp] theorem setPresence_byteIx (b : Bool) (s : State) : (setPresence b s).byteIx = s.byteIx := rfl
@[simp] theorem setPresence_bitIx (b : Bool) (s : State) : (setPresence b s).bitIx = s.bitIx := rfl
@[simp] theorem setPresence_shreg (b : Bool) (s : State) : (setPresence b s).shreg = s.shreg := rfl
@[simp] theorem setPresence_tcnt (b : Bool) (s : State) : (setPresence b s).tcnt = s.tcnt := rfl
@[simp] theorem setPresence_wrom (b : Bool) (s : State) : (setPresence b s).wrom = s.wrom := rfl
@[simp] theorem setPresence_pos (b : Bool) (s : State) : (setPresence b s).pos = s.pos := rfl
@[simp] theorem setPresence_ndisc (b : Bool) (s : State) : (setPresence b s).ndisc = s.ndisc := rfl
@[simp] theorem setPresence_idb (b : Bool) (s : State) : (setPresence b s).idb = s.idb := rfl
@[simp] theorem setPresence_cmpb (b : Bool) (s : State) : (setPresence b s).cmpb = s.cmpb := rfl
@[simp] theorem setPresence_hold (b : Bool) (s : State) : (setPresence b s).hold = s.hold := rfl
@[simp] theorem setPresence_inputs (b : Bool) (s : State) : (setPresence b s).inputs = s.inputs := rfl
@[simp] theorem setPresence_line (b : Bool) (s : State) : (setPresence b s).line = s.line := rfl
@[simp] theorem setPresence_draws (b : Bool) (s : State) : (setPresence b s).draws = s.draws := rfl
@[simp] theorem setPresence_readDraws (b : Bool) (s : State) :
    (setPresence b s).readDraws = s.readDraws := rfl
@[simp] theorem setPresence_trace (b : Bool) (s : State) : (setPresence b s).trace = s.trace := rfl
@[simp] theorem setPresence_ticks (b : Bool) (s : State) : (setPresence b s).ticks = s.ticks := rfl

/-! ### setFound (R40) -/

@[simp] theorem setFound_owOut (b : Bool) (s : State) : (setFound b s).owOut = s.owOut := rfl
@[simp] theorem setFound_crit (b : Bool) (s : State) : (setFound b s).crit = s.crit := rfl
@[simp] theorem setFound_busy (b : Bool) (s : State) : (setFound b s).busy = s.busy := rfl
@[simp] theorem setFound_hRdata (b : Bool) (s : State) : (setFound b s).hRdata = s.hRdata := rfl
@[simp] theorem setFound_spul (b : Bool) (s : State) : (setFound b s).spul = s.spul := rfl
@[simp] theorem setFound_presence (b : Bool) (s : State) : (setFound b s).presence = s.presence := rfl
@[simp] theorem setFound_found (b : Bool) (s : State) : (setFound b s).found = b := rfl
@[simp] theorem setFound_pmode (b : Bool) (s : State) : (setFound b s).pmode = s.pmode := rfl
@[simp] theorem setFound_tvalid (b : Bool) (s : State) : (setFound b s).tvalid = s.tvalid := rfl
@[simp] theorem setFound_cause (b : Bool) (s : State) : (setFound b s).cause = s.cause := rfl
@[simp] theorem setFound_info (b : Bool) (s : State) : (setFound b s).info = s.info := rfl
@[simp] theorem setFound_spuEn (b : Bool) (s : State) : (setFound b s).spuEn = s.spuEn := rfl
@[simp] theorem setFound_data (b : Bool) (s : State) : (setFound b s).data = s.data := rfl
@[simp] theorem setFound_buf (b : Bool) (s : State) : (setFound b s).buf = s.buf := rfl
@[simp] theorem setFound_rom (b : Bool) (s : State) : (setFound b s).rom = s.rom := rfl
@[simp] theorem setFound_srom (b : Bool) (s : State) : (setFound b s).srom = s.srom := rfl
@[simp] theorem setFound_ldisc (b : Bool) (s : State) : (setFound b s).ldisc = s.ldisc := rfl
@[simp] theorem setFound_crc (b : Bool) (s : State) : (setFound b s).crc = s.crc := rfl
@[simp] theorem setFound_tnum (b : Bool) (s : State) : (setFound b s).tnum = s.tnum := rfl
@[simp] theorem setFound_tden (b : Bool) (s : State) : (setFound b s).tden = s.tden := rfl
@[simp] theorem setFound_tc100 (b : Bool) (s : State) : (setFound b s).tc100 = s.tc100 := rfl
@[simp] theorem setFound_res (b : Bool) (s : State) : (setFound b s).res = s.res := rfl
@[simp] theorem setFound_opc (b : Bool) (s : State) : (setFound b s).opc = s.opc := rfl
@[simp] theorem setFound_arg (b : Bool) (s : State) : (setFound b s).arg = s.arg := rfl
@[simp] theorem setFound_stepIx (b : Bool) (s : State) : (setFound b s).stepIx = s.stepIx := rfl
@[simp] theorem setFound_byteIx (b : Bool) (s : State) : (setFound b s).byteIx = s.byteIx := rfl
@[simp] theorem setFound_bitIx (b : Bool) (s : State) : (setFound b s).bitIx = s.bitIx := rfl
@[simp] theorem setFound_shreg (b : Bool) (s : State) : (setFound b s).shreg = s.shreg := rfl
@[simp] theorem setFound_tcnt (b : Bool) (s : State) : (setFound b s).tcnt = s.tcnt := rfl
@[simp] theorem setFound_wrom (b : Bool) (s : State) : (setFound b s).wrom = s.wrom := rfl
@[simp] theorem setFound_pos (b : Bool) (s : State) : (setFound b s).pos = s.pos := rfl
@[simp] theorem setFound_ndisc (b : Bool) (s : State) : (setFound b s).ndisc = s.ndisc := rfl
@[simp] theorem setFound_idb (b : Bool) (s : State) : (setFound b s).idb = s.idb := rfl
@[simp] theorem setFound_cmpb (b : Bool) (s : State) : (setFound b s).cmpb = s.cmpb := rfl
@[simp] theorem setFound_hold (b : Bool) (s : State) : (setFound b s).hold = s.hold := rfl
@[simp] theorem setFound_inputs (b : Bool) (s : State) : (setFound b s).inputs = s.inputs := rfl
@[simp] theorem setFound_line (b : Bool) (s : State) : (setFound b s).line = s.line := rfl
@[simp] theorem setFound_draws (b : Bool) (s : State) : (setFound b s).draws = s.draws := rfl
@[simp] theorem setFound_readDraws (b : Bool) (s : State) : (setFound b s).readDraws = s.readDraws := rfl
@[simp] theorem setFound_trace (b : Bool) (s : State) : (setFound b s).trace = s.trace := rfl
@[simp] theorem setFound_ticks (b : Bool) (s : State) : (setFound b s).ticks = s.ticks := rfl

/-! ### setPmode (R41) -/

@[simp] theorem setPmode_owOut (b : Bool) (s : State) : (setPmode b s).owOut = s.owOut := rfl
@[simp] theorem setPmode_crit (b : Bool) (s : State) : (setPmode b s).crit = s.crit := rfl
@[simp] theorem setPmode_busy (b : Bool) (s : State) : (setPmode b s).busy = s.busy := rfl
@[simp] theorem setPmode_hRdata (b : Bool) (s : State) : (setPmode b s).hRdata = s.hRdata := rfl
@[simp] theorem setPmode_spul (b : Bool) (s : State) : (setPmode b s).spul = s.spul := rfl
@[simp] theorem setPmode_presence (b : Bool) (s : State) : (setPmode b s).presence = s.presence := rfl
@[simp] theorem setPmode_found (b : Bool) (s : State) : (setPmode b s).found = s.found := rfl
@[simp] theorem setPmode_pmode (b : Bool) (s : State) : (setPmode b s).pmode = b := rfl
@[simp] theorem setPmode_tvalid (b : Bool) (s : State) : (setPmode b s).tvalid = s.tvalid := rfl
@[simp] theorem setPmode_cause (b : Bool) (s : State) : (setPmode b s).cause = s.cause := rfl
@[simp] theorem setPmode_info (b : Bool) (s : State) : (setPmode b s).info = s.info := rfl
@[simp] theorem setPmode_spuEn (b : Bool) (s : State) : (setPmode b s).spuEn = s.spuEn := rfl
@[simp] theorem setPmode_data (b : Bool) (s : State) : (setPmode b s).data = s.data := rfl
@[simp] theorem setPmode_buf (b : Bool) (s : State) : (setPmode b s).buf = s.buf := rfl
@[simp] theorem setPmode_rom (b : Bool) (s : State) : (setPmode b s).rom = s.rom := rfl
@[simp] theorem setPmode_srom (b : Bool) (s : State) : (setPmode b s).srom = s.srom := rfl
@[simp] theorem setPmode_ldisc (b : Bool) (s : State) : (setPmode b s).ldisc = s.ldisc := rfl
@[simp] theorem setPmode_crc (b : Bool) (s : State) : (setPmode b s).crc = s.crc := rfl
@[simp] theorem setPmode_tnum (b : Bool) (s : State) : (setPmode b s).tnum = s.tnum := rfl
@[simp] theorem setPmode_tden (b : Bool) (s : State) : (setPmode b s).tden = s.tden := rfl
@[simp] theorem setPmode_tc100 (b : Bool) (s : State) : (setPmode b s).tc100 = s.tc100 := rfl
@[simp] theorem setPmode_res (b : Bool) (s : State) : (setPmode b s).res = s.res := rfl
@[simp] theorem setPmode_opc (b : Bool) (s : State) : (setPmode b s).opc = s.opc := rfl
@[simp] theorem setPmode_arg (b : Bool) (s : State) : (setPmode b s).arg = s.arg := rfl
@[simp] theorem setPmode_stepIx (b : Bool) (s : State) : (setPmode b s).stepIx = s.stepIx := rfl
@[simp] theorem setPmode_byteIx (b : Bool) (s : State) : (setPmode b s).byteIx = s.byteIx := rfl
@[simp] theorem setPmode_bitIx (b : Bool) (s : State) : (setPmode b s).bitIx = s.bitIx := rfl
@[simp] theorem setPmode_shreg (b : Bool) (s : State) : (setPmode b s).shreg = s.shreg := rfl
@[simp] theorem setPmode_tcnt (b : Bool) (s : State) : (setPmode b s).tcnt = s.tcnt := rfl
@[simp] theorem setPmode_wrom (b : Bool) (s : State) : (setPmode b s).wrom = s.wrom := rfl
@[simp] theorem setPmode_pos (b : Bool) (s : State) : (setPmode b s).pos = s.pos := rfl
@[simp] theorem setPmode_ndisc (b : Bool) (s : State) : (setPmode b s).ndisc = s.ndisc := rfl
@[simp] theorem setPmode_idb (b : Bool) (s : State) : (setPmode b s).idb = s.idb := rfl
@[simp] theorem setPmode_cmpb (b : Bool) (s : State) : (setPmode b s).cmpb = s.cmpb := rfl
@[simp] theorem setPmode_hold (b : Bool) (s : State) : (setPmode b s).hold = s.hold := rfl
@[simp] theorem setPmode_inputs (b : Bool) (s : State) : (setPmode b s).inputs = s.inputs := rfl
@[simp] theorem setPmode_line (b : Bool) (s : State) : (setPmode b s).line = s.line := rfl
@[simp] theorem setPmode_draws (b : Bool) (s : State) : (setPmode b s).draws = s.draws := rfl
@[simp] theorem setPmode_readDraws (b : Bool) (s : State) : (setPmode b s).readDraws = s.readDraws := rfl
@[simp] theorem setPmode_trace (b : Bool) (s : State) : (setPmode b s).trace = s.trace := rfl
@[simp] theorem setPmode_ticks (b : Bool) (s : State) : (setPmode b s).ticks = s.ticks := rfl

/-! ### setTvalid (R44) -/

@[simp] theorem setTvalid_owOut (b : Bool) (s : State) : (setTvalid b s).owOut = s.owOut := rfl
@[simp] theorem setTvalid_crit (b : Bool) (s : State) : (setTvalid b s).crit = s.crit := rfl
@[simp] theorem setTvalid_busy (b : Bool) (s : State) : (setTvalid b s).busy = s.busy := rfl
@[simp] theorem setTvalid_hRdata (b : Bool) (s : State) : (setTvalid b s).hRdata = s.hRdata := rfl
@[simp] theorem setTvalid_spul (b : Bool) (s : State) : (setTvalid b s).spul = s.spul := rfl
@[simp] theorem setTvalid_presence (b : Bool) (s : State) : (setTvalid b s).presence = s.presence := rfl
@[simp] theorem setTvalid_found (b : Bool) (s : State) : (setTvalid b s).found = s.found := rfl
@[simp] theorem setTvalid_pmode (b : Bool) (s : State) : (setTvalid b s).pmode = s.pmode := rfl
@[simp] theorem setTvalid_tvalid (b : Bool) (s : State) : (setTvalid b s).tvalid = b := rfl
@[simp] theorem setTvalid_cause (b : Bool) (s : State) : (setTvalid b s).cause = s.cause := rfl
@[simp] theorem setTvalid_info (b : Bool) (s : State) : (setTvalid b s).info = s.info := rfl
@[simp] theorem setTvalid_spuEn (b : Bool) (s : State) : (setTvalid b s).spuEn = s.spuEn := rfl
@[simp] theorem setTvalid_data (b : Bool) (s : State) : (setTvalid b s).data = s.data := rfl
@[simp] theorem setTvalid_buf (b : Bool) (s : State) : (setTvalid b s).buf = s.buf := rfl
@[simp] theorem setTvalid_rom (b : Bool) (s : State) : (setTvalid b s).rom = s.rom := rfl
@[simp] theorem setTvalid_srom (b : Bool) (s : State) : (setTvalid b s).srom = s.srom := rfl
@[simp] theorem setTvalid_ldisc (b : Bool) (s : State) : (setTvalid b s).ldisc = s.ldisc := rfl
@[simp] theorem setTvalid_crc (b : Bool) (s : State) : (setTvalid b s).crc = s.crc := rfl
@[simp] theorem setTvalid_tnum (b : Bool) (s : State) : (setTvalid b s).tnum = s.tnum := rfl
@[simp] theorem setTvalid_tden (b : Bool) (s : State) : (setTvalid b s).tden = s.tden := rfl
@[simp] theorem setTvalid_tc100 (b : Bool) (s : State) : (setTvalid b s).tc100 = s.tc100 := rfl
@[simp] theorem setTvalid_res (b : Bool) (s : State) : (setTvalid b s).res = s.res := rfl
@[simp] theorem setTvalid_opc (b : Bool) (s : State) : (setTvalid b s).opc = s.opc := rfl
@[simp] theorem setTvalid_arg (b : Bool) (s : State) : (setTvalid b s).arg = s.arg := rfl
@[simp] theorem setTvalid_stepIx (b : Bool) (s : State) : (setTvalid b s).stepIx = s.stepIx := rfl
@[simp] theorem setTvalid_byteIx (b : Bool) (s : State) : (setTvalid b s).byteIx = s.byteIx := rfl
@[simp] theorem setTvalid_bitIx (b : Bool) (s : State) : (setTvalid b s).bitIx = s.bitIx := rfl
@[simp] theorem setTvalid_shreg (b : Bool) (s : State) : (setTvalid b s).shreg = s.shreg := rfl
@[simp] theorem setTvalid_tcnt (b : Bool) (s : State) : (setTvalid b s).tcnt = s.tcnt := rfl
@[simp] theorem setTvalid_wrom (b : Bool) (s : State) : (setTvalid b s).wrom = s.wrom := rfl
@[simp] theorem setTvalid_pos (b : Bool) (s : State) : (setTvalid b s).pos = s.pos := rfl
@[simp] theorem setTvalid_ndisc (b : Bool) (s : State) : (setTvalid b s).ndisc = s.ndisc := rfl
@[simp] theorem setTvalid_idb (b : Bool) (s : State) : (setTvalid b s).idb = s.idb := rfl
@[simp] theorem setTvalid_cmpb (b : Bool) (s : State) : (setTvalid b s).cmpb = s.cmpb := rfl
@[simp] theorem setTvalid_hold (b : Bool) (s : State) : (setTvalid b s).hold = s.hold := rfl
@[simp] theorem setTvalid_inputs (b : Bool) (s : State) : (setTvalid b s).inputs = s.inputs := rfl
@[simp] theorem setTvalid_line (b : Bool) (s : State) : (setTvalid b s).line = s.line := rfl
@[simp] theorem setTvalid_draws (b : Bool) (s : State) : (setTvalid b s).draws = s.draws := rfl
@[simp] theorem setTvalid_readDraws (b : Bool) (s : State) : (setTvalid b s).readDraws = s.readDraws := rfl
@[simp] theorem setTvalid_trace (b : Bool) (s : State) : (setTvalid b s).trace = s.trace := rfl
@[simp] theorem setTvalid_ticks (b : Bool) (s : State) : (setTvalid b s).ticks = s.ticks := rfl

/-! ### setLdisc (R33) -/

@[simp] theorem setLdisc_owOut (v : Pos) (s : State) : (setLdisc v s).owOut = s.owOut := rfl
@[simp] theorem setLdisc_crit (v : Pos) (s : State) : (setLdisc v s).crit = s.crit := rfl
@[simp] theorem setLdisc_busy (v : Pos) (s : State) : (setLdisc v s).busy = s.busy := rfl
@[simp] theorem setLdisc_hRdata (v : Pos) (s : State) : (setLdisc v s).hRdata = s.hRdata := rfl
@[simp] theorem setLdisc_spul (v : Pos) (s : State) : (setLdisc v s).spul = s.spul := rfl
@[simp] theorem setLdisc_presence (v : Pos) (s : State) : (setLdisc v s).presence = s.presence := rfl
@[simp] theorem setLdisc_found (v : Pos) (s : State) : (setLdisc v s).found = s.found := rfl
@[simp] theorem setLdisc_pmode (v : Pos) (s : State) : (setLdisc v s).pmode = s.pmode := rfl
@[simp] theorem setLdisc_tvalid (v : Pos) (s : State) : (setLdisc v s).tvalid = s.tvalid := rfl
@[simp] theorem setLdisc_cause (v : Pos) (s : State) : (setLdisc v s).cause = s.cause := rfl
@[simp] theorem setLdisc_info (v : Pos) (s : State) : (setLdisc v s).info = s.info := rfl
@[simp] theorem setLdisc_spuEn (v : Pos) (s : State) : (setLdisc v s).spuEn = s.spuEn := rfl
@[simp] theorem setLdisc_data (v : Pos) (s : State) : (setLdisc v s).data = s.data := rfl
@[simp] theorem setLdisc_buf (v : Pos) (s : State) : (setLdisc v s).buf = s.buf := rfl
@[simp] theorem setLdisc_rom (v : Pos) (s : State) : (setLdisc v s).rom = s.rom := rfl
@[simp] theorem setLdisc_srom (v : Pos) (s : State) : (setLdisc v s).srom = s.srom := rfl
@[simp] theorem setLdisc_ldisc (v : Pos) (s : State) : (setLdisc v s).ldisc = v := rfl
@[simp] theorem setLdisc_crc (v : Pos) (s : State) : (setLdisc v s).crc = s.crc := rfl
@[simp] theorem setLdisc_tnum (v : Pos) (s : State) : (setLdisc v s).tnum = s.tnum := rfl
@[simp] theorem setLdisc_tden (v : Pos) (s : State) : (setLdisc v s).tden = s.tden := rfl
@[simp] theorem setLdisc_tc100 (v : Pos) (s : State) : (setLdisc v s).tc100 = s.tc100 := rfl
@[simp] theorem setLdisc_res (v : Pos) (s : State) : (setLdisc v s).res = s.res := rfl
@[simp] theorem setLdisc_opc (v : Pos) (s : State) : (setLdisc v s).opc = s.opc := rfl
@[simp] theorem setLdisc_arg (v : Pos) (s : State) : (setLdisc v s).arg = s.arg := rfl
@[simp] theorem setLdisc_stepIx (v : Pos) (s : State) : (setLdisc v s).stepIx = s.stepIx := rfl
@[simp] theorem setLdisc_byteIx (v : Pos) (s : State) : (setLdisc v s).byteIx = s.byteIx := rfl
@[simp] theorem setLdisc_bitIx (v : Pos) (s : State) : (setLdisc v s).bitIx = s.bitIx := rfl
@[simp] theorem setLdisc_shreg (v : Pos) (s : State) : (setLdisc v s).shreg = s.shreg := rfl
@[simp] theorem setLdisc_tcnt (v : Pos) (s : State) : (setLdisc v s).tcnt = s.tcnt := rfl
@[simp] theorem setLdisc_wrom (v : Pos) (s : State) : (setLdisc v s).wrom = s.wrom := rfl
@[simp] theorem setLdisc_pos (v : Pos) (s : State) : (setLdisc v s).pos = s.pos := rfl
@[simp] theorem setLdisc_ndisc (v : Pos) (s : State) : (setLdisc v s).ndisc = s.ndisc := rfl
@[simp] theorem setLdisc_idb (v : Pos) (s : State) : (setLdisc v s).idb = s.idb := rfl
@[simp] theorem setLdisc_cmpb (v : Pos) (s : State) : (setLdisc v s).cmpb = s.cmpb := rfl
@[simp] theorem setLdisc_hold (v : Pos) (s : State) : (setLdisc v s).hold = s.hold := rfl
@[simp] theorem setLdisc_inputs (v : Pos) (s : State) : (setLdisc v s).inputs = s.inputs := rfl
@[simp] theorem setLdisc_line (v : Pos) (s : State) : (setLdisc v s).line = s.line := rfl
@[simp] theorem setLdisc_draws (v : Pos) (s : State) : (setLdisc v s).draws = s.draws := rfl
@[simp] theorem setLdisc_readDraws (v : Pos) (s : State) : (setLdisc v s).readDraws = s.readDraws := rfl
@[simp] theorem setLdisc_trace (v : Pos) (s : State) : (setLdisc v s).trace = s.trace := rfl
@[simp] theorem setLdisc_ticks (v : Pos) (s : State) : (setLdisc v s).ticks = s.ticks := rfl

/-! ### setData (R29) -/

@[simp] theorem setData_owOut (v : Byte) (s : State) : (setData v s).owOut = s.owOut := rfl
@[simp] theorem setData_crit (v : Byte) (s : State) : (setData v s).crit = s.crit := rfl
@[simp] theorem setData_busy (v : Byte) (s : State) : (setData v s).busy = s.busy := rfl
@[simp] theorem setData_hRdata (v : Byte) (s : State) : (setData v s).hRdata = s.hRdata := rfl
@[simp] theorem setData_spul (v : Byte) (s : State) : (setData v s).spul = s.spul := rfl
@[simp] theorem setData_presence (v : Byte) (s : State) : (setData v s).presence = s.presence := rfl
@[simp] theorem setData_found (v : Byte) (s : State) : (setData v s).found = s.found := rfl
@[simp] theorem setData_pmode (v : Byte) (s : State) : (setData v s).pmode = s.pmode := rfl
@[simp] theorem setData_tvalid (v : Byte) (s : State) : (setData v s).tvalid = s.tvalid := rfl
@[simp] theorem setData_cause (v : Byte) (s : State) : (setData v s).cause = s.cause := rfl
@[simp] theorem setData_info (v : Byte) (s : State) : (setData v s).info = s.info := rfl
@[simp] theorem setData_spuEn (v : Byte) (s : State) : (setData v s).spuEn = s.spuEn := rfl
@[simp] theorem setData_data (v : Byte) (s : State) : (setData v s).data = v := rfl
@[simp] theorem setData_buf (v : Byte) (s : State) : (setData v s).buf = s.buf := rfl
@[simp] theorem setData_rom (v : Byte) (s : State) : (setData v s).rom = s.rom := rfl
@[simp] theorem setData_srom (v : Byte) (s : State) : (setData v s).srom = s.srom := rfl
@[simp] theorem setData_ldisc (v : Byte) (s : State) : (setData v s).ldisc = s.ldisc := rfl
@[simp] theorem setData_crc (v : Byte) (s : State) : (setData v s).crc = s.crc := rfl
@[simp] theorem setData_tnum (v : Byte) (s : State) : (setData v s).tnum = s.tnum := rfl
@[simp] theorem setData_tden (v : Byte) (s : State) : (setData v s).tden = s.tden := rfl
@[simp] theorem setData_tc100 (v : Byte) (s : State) : (setData v s).tc100 = s.tc100 := rfl
@[simp] theorem setData_res (v : Byte) (s : State) : (setData v s).res = s.res := rfl
@[simp] theorem setData_opc (v : Byte) (s : State) : (setData v s).opc = s.opc := rfl
@[simp] theorem setData_arg (v : Byte) (s : State) : (setData v s).arg = s.arg := rfl
@[simp] theorem setData_stepIx (v : Byte) (s : State) : (setData v s).stepIx = s.stepIx := rfl
@[simp] theorem setData_byteIx (v : Byte) (s : State) : (setData v s).byteIx = s.byteIx := rfl
@[simp] theorem setData_bitIx (v : Byte) (s : State) : (setData v s).bitIx = s.bitIx := rfl
@[simp] theorem setData_shreg (v : Byte) (s : State) : (setData v s).shreg = s.shreg := rfl
@[simp] theorem setData_tcnt (v : Byte) (s : State) : (setData v s).tcnt = s.tcnt := rfl
@[simp] theorem setData_wrom (v : Byte) (s : State) : (setData v s).wrom = s.wrom := rfl
@[simp] theorem setData_pos (v : Byte) (s : State) : (setData v s).pos = s.pos := rfl
@[simp] theorem setData_ndisc (v : Byte) (s : State) : (setData v s).ndisc = s.ndisc := rfl
@[simp] theorem setData_idb (v : Byte) (s : State) : (setData v s).idb = s.idb := rfl
@[simp] theorem setData_cmpb (v : Byte) (s : State) : (setData v s).cmpb = s.cmpb := rfl
@[simp] theorem setData_hold (v : Byte) (s : State) : (setData v s).hold = s.hold := rfl
@[simp] theorem setData_inputs (v : Byte) (s : State) : (setData v s).inputs = s.inputs := rfl
@[simp] theorem setData_line (v : Byte) (s : State) : (setData v s).line = s.line := rfl
@[simp] theorem setData_draws (v : Byte) (s : State) : (setData v s).draws = s.draws := rfl
@[simp] theorem setData_readDraws (v : Byte) (s : State) : (setData v s).readDraws = s.readDraws := rfl
@[simp] theorem setData_trace (v : Byte) (s : State) : (setData v s).trace = s.trace := rfl
@[simp] theorem setData_ticks (v : Byte) (s : State) : (setData v s).ticks = s.ticks := rfl

/-! ### setCrc (R34) -/

@[simp] theorem setCrc_owOut (v : Byte) (s : State) : (setCrc v s).owOut = s.owOut := rfl
@[simp] theorem setCrc_crit (v : Byte) (s : State) : (setCrc v s).crit = s.crit := rfl
@[simp] theorem setCrc_busy (v : Byte) (s : State) : (setCrc v s).busy = s.busy := rfl
@[simp] theorem setCrc_hRdata (v : Byte) (s : State) : (setCrc v s).hRdata = s.hRdata := rfl
@[simp] theorem setCrc_spul (v : Byte) (s : State) : (setCrc v s).spul = s.spul := rfl
@[simp] theorem setCrc_presence (v : Byte) (s : State) : (setCrc v s).presence = s.presence := rfl
@[simp] theorem setCrc_found (v : Byte) (s : State) : (setCrc v s).found = s.found := rfl
@[simp] theorem setCrc_pmode (v : Byte) (s : State) : (setCrc v s).pmode = s.pmode := rfl
@[simp] theorem setCrc_tvalid (v : Byte) (s : State) : (setCrc v s).tvalid = s.tvalid := rfl
@[simp] theorem setCrc_cause (v : Byte) (s : State) : (setCrc v s).cause = s.cause := rfl
@[simp] theorem setCrc_info (v : Byte) (s : State) : (setCrc v s).info = s.info := rfl
@[simp] theorem setCrc_spuEn (v : Byte) (s : State) : (setCrc v s).spuEn = s.spuEn := rfl
@[simp] theorem setCrc_data (v : Byte) (s : State) : (setCrc v s).data = s.data := rfl
@[simp] theorem setCrc_buf (v : Byte) (s : State) : (setCrc v s).buf = s.buf := rfl
@[simp] theorem setCrc_rom (v : Byte) (s : State) : (setCrc v s).rom = s.rom := rfl
@[simp] theorem setCrc_srom (v : Byte) (s : State) : (setCrc v s).srom = s.srom := rfl
@[simp] theorem setCrc_ldisc (v : Byte) (s : State) : (setCrc v s).ldisc = s.ldisc := rfl
@[simp] theorem setCrc_crc (v : Byte) (s : State) : (setCrc v s).crc = v := rfl
@[simp] theorem setCrc_tnum (v : Byte) (s : State) : (setCrc v s).tnum = s.tnum := rfl
@[simp] theorem setCrc_tden (v : Byte) (s : State) : (setCrc v s).tden = s.tden := rfl
@[simp] theorem setCrc_tc100 (v : Byte) (s : State) : (setCrc v s).tc100 = s.tc100 := rfl
@[simp] theorem setCrc_res (v : Byte) (s : State) : (setCrc v s).res = s.res := rfl
@[simp] theorem setCrc_opc (v : Byte) (s : State) : (setCrc v s).opc = s.opc := rfl
@[simp] theorem setCrc_arg (v : Byte) (s : State) : (setCrc v s).arg = s.arg := rfl
@[simp] theorem setCrc_stepIx (v : Byte) (s : State) : (setCrc v s).stepIx = s.stepIx := rfl
@[simp] theorem setCrc_byteIx (v : Byte) (s : State) : (setCrc v s).byteIx = s.byteIx := rfl
@[simp] theorem setCrc_bitIx (v : Byte) (s : State) : (setCrc v s).bitIx = s.bitIx := rfl
@[simp] theorem setCrc_shreg (v : Byte) (s : State) : (setCrc v s).shreg = s.shreg := rfl
@[simp] theorem setCrc_tcnt (v : Byte) (s : State) : (setCrc v s).tcnt = s.tcnt := rfl
@[simp] theorem setCrc_wrom (v : Byte) (s : State) : (setCrc v s).wrom = s.wrom := rfl
@[simp] theorem setCrc_pos (v : Byte) (s : State) : (setCrc v s).pos = s.pos := rfl
@[simp] theorem setCrc_ndisc (v : Byte) (s : State) : (setCrc v s).ndisc = s.ndisc := rfl
@[simp] theorem setCrc_idb (v : Byte) (s : State) : (setCrc v s).idb = s.idb := rfl
@[simp] theorem setCrc_cmpb (v : Byte) (s : State) : (setCrc v s).cmpb = s.cmpb := rfl
@[simp] theorem setCrc_hold (v : Byte) (s : State) : (setCrc v s).hold = s.hold := rfl
@[simp] theorem setCrc_inputs (v : Byte) (s : State) : (setCrc v s).inputs = s.inputs := rfl
@[simp] theorem setCrc_line (v : Byte) (s : State) : (setCrc v s).line = s.line := rfl
@[simp] theorem setCrc_draws (v : Byte) (s : State) : (setCrc v s).draws = s.draws := rfl
@[simp] theorem setCrc_readDraws (v : Byte) (s : State) : (setCrc v s).readDraws = s.readDraws := rfl
@[simp] theorem setCrc_trace (v : Byte) (s : State) : (setCrc v s).trace = s.trace := rfl
@[simp] theorem setCrc_ticks (v : Byte) (s : State) : (setCrc v s).ticks = s.ticks := rfl

/-! ### setBufByte (R30) -/

@[simp] theorem setBufByte_owOut (k : Nat) (v : Byte) (s : State) :
    (setBufByte k v s).owOut = s.owOut := rfl
@[simp] theorem setBufByte_crit (k : Nat) (v : Byte) (s : State) : (setBufByte k v s).crit = s.crit := rfl
@[simp] theorem setBufByte_busy (k : Nat) (v : Byte) (s : State) : (setBufByte k v s).busy = s.busy := rfl
@[simp] theorem setBufByte_hRdata (k : Nat) (v : Byte) (s : State) :
    (setBufByte k v s).hRdata = s.hRdata := rfl
@[simp] theorem setBufByte_spul (k : Nat) (v : Byte) (s : State) : (setBufByte k v s).spul = s.spul := rfl
@[simp] theorem setBufByte_presence (k : Nat) (v : Byte) (s : State) :
    (setBufByte k v s).presence = s.presence := rfl
@[simp] theorem setBufByte_found (k : Nat) (v : Byte) (s : State) :
    (setBufByte k v s).found = s.found := rfl
@[simp] theorem setBufByte_pmode (k : Nat) (v : Byte) (s : State) :
    (setBufByte k v s).pmode = s.pmode := rfl
@[simp] theorem setBufByte_tvalid (k : Nat) (v : Byte) (s : State) :
    (setBufByte k v s).tvalid = s.tvalid := rfl
@[simp] theorem setBufByte_cause (k : Nat) (v : Byte) (s : State) :
    (setBufByte k v s).cause = s.cause := rfl
@[simp] theorem setBufByte_info (k : Nat) (v : Byte) (s : State) : (setBufByte k v s).info = s.info := rfl
@[simp] theorem setBufByte_spuEn (k : Nat) (v : Byte) (s : State) :
    (setBufByte k v s).spuEn = s.spuEn := rfl
@[simp] theorem setBufByte_data (k : Nat) (v : Byte) (s : State) : (setBufByte k v s).data = s.data := rfl
@[simp] theorem setBufByte_buf (k : Nat) (v : Byte) (s : State) :
    (setBufByte k v s).buf = setByte s.buf k v := rfl
@[simp] theorem setBufByte_rom (k : Nat) (v : Byte) (s : State) : (setBufByte k v s).rom = s.rom := rfl
@[simp] theorem setBufByte_srom (k : Nat) (v : Byte) (s : State) : (setBufByte k v s).srom = s.srom := rfl
@[simp] theorem setBufByte_ldisc (k : Nat) (v : Byte) (s : State) :
    (setBufByte k v s).ldisc = s.ldisc := rfl
@[simp] theorem setBufByte_crc (k : Nat) (v : Byte) (s : State) : (setBufByte k v s).crc = s.crc := rfl
@[simp] theorem setBufByte_tnum (k : Nat) (v : Byte) (s : State) : (setBufByte k v s).tnum = s.tnum := rfl
@[simp] theorem setBufByte_tden (k : Nat) (v : Byte) (s : State) : (setBufByte k v s).tden = s.tden := rfl
@[simp] theorem setBufByte_tc100 (k : Nat) (v : Byte) (s : State) :
    (setBufByte k v s).tc100 = s.tc100 := rfl
@[simp] theorem setBufByte_res (k : Nat) (v : Byte) (s : State) : (setBufByte k v s).res = s.res := rfl
@[simp] theorem setBufByte_opc (k : Nat) (v : Byte) (s : State) : (setBufByte k v s).opc = s.opc := rfl
@[simp] theorem setBufByte_arg (k : Nat) (v : Byte) (s : State) : (setBufByte k v s).arg = s.arg := rfl
@[simp] theorem setBufByte_stepIx (k : Nat) (v : Byte) (s : State) :
    (setBufByte k v s).stepIx = s.stepIx := rfl
@[simp] theorem setBufByte_byteIx (k : Nat) (v : Byte) (s : State) :
    (setBufByte k v s).byteIx = s.byteIx := rfl
@[simp] theorem setBufByte_bitIx (k : Nat) (v : Byte) (s : State) :
    (setBufByte k v s).bitIx = s.bitIx := rfl
@[simp] theorem setBufByte_shreg (k : Nat) (v : Byte) (s : State) :
    (setBufByte k v s).shreg = s.shreg := rfl
@[simp] theorem setBufByte_tcnt (k : Nat) (v : Byte) (s : State) : (setBufByte k v s).tcnt = s.tcnt := rfl
@[simp] theorem setBufByte_wrom (k : Nat) (v : Byte) (s : State) : (setBufByte k v s).wrom = s.wrom := rfl
@[simp] theorem setBufByte_pos (k : Nat) (v : Byte) (s : State) : (setBufByte k v s).pos = s.pos := rfl
@[simp] theorem setBufByte_ndisc (k : Nat) (v : Byte) (s : State) :
    (setBufByte k v s).ndisc = s.ndisc := rfl
@[simp] theorem setBufByte_idb (k : Nat) (v : Byte) (s : State) : (setBufByte k v s).idb = s.idb := rfl
@[simp] theorem setBufByte_cmpb (k : Nat) (v : Byte) (s : State) : (setBufByte k v s).cmpb = s.cmpb := rfl
@[simp] theorem setBufByte_hold (k : Nat) (v : Byte) (s : State) : (setBufByte k v s).hold = s.hold := rfl
@[simp] theorem setBufByte_inputs (k : Nat) (v : Byte) (s : State) :
    (setBufByte k v s).inputs = s.inputs := rfl
@[simp] theorem setBufByte_line (k : Nat) (v : Byte) (s : State) : (setBufByte k v s).line = s.line := rfl
@[simp] theorem setBufByte_draws (k : Nat) (v : Byte) (s : State) :
    (setBufByte k v s).draws = s.draws := rfl
@[simp] theorem setBufByte_readDraws (k : Nat) (v : Byte) (s : State) :
    (setBufByte k v s).readDraws = s.readDraws := rfl
@[simp] theorem setBufByte_trace (k : Nat) (v : Byte) (s : State) :
    (setBufByte k v s).trace = s.trace := rfl
@[simp] theorem setBufByte_ticks (k : Nat) (v : Byte) (s : State) :
    (setBufByte k v s).ticks = s.ticks := rfl

/-! ### setPosition (R50) -/

@[simp] theorem setPosition_owOut (n : Nat) (s : State) : (setPosition n s).owOut = s.owOut := rfl
@[simp] theorem setPosition_crit (n : Nat) (s : State) : (setPosition n s).crit = s.crit := rfl
@[simp] theorem setPosition_busy (n : Nat) (s : State) : (setPosition n s).busy = s.busy := rfl
@[simp] theorem setPosition_hRdata (n : Nat) (s : State) : (setPosition n s).hRdata = s.hRdata := rfl
@[simp] theorem setPosition_spul (n : Nat) (s : State) : (setPosition n s).spul = s.spul := rfl
@[simp] theorem setPosition_presence (n : Nat) (s : State) : (setPosition n s).presence = s.presence := rfl
@[simp] theorem setPosition_found (n : Nat) (s : State) : (setPosition n s).found = s.found := rfl
@[simp] theorem setPosition_pmode (n : Nat) (s : State) : (setPosition n s).pmode = s.pmode := rfl
@[simp] theorem setPosition_tvalid (n : Nat) (s : State) : (setPosition n s).tvalid = s.tvalid := rfl
@[simp] theorem setPosition_cause (n : Nat) (s : State) : (setPosition n s).cause = s.cause := rfl
@[simp] theorem setPosition_info (n : Nat) (s : State) : (setPosition n s).info = s.info := rfl
@[simp] theorem setPosition_spuEn (n : Nat) (s : State) : (setPosition n s).spuEn = s.spuEn := rfl
@[simp] theorem setPosition_data (n : Nat) (s : State) : (setPosition n s).data = s.data := rfl
@[simp] theorem setPosition_buf (n : Nat) (s : State) : (setPosition n s).buf = s.buf := rfl
@[simp] theorem setPosition_rom (n : Nat) (s : State) : (setPosition n s).rom = s.rom := rfl
@[simp] theorem setPosition_srom (n : Nat) (s : State) : (setPosition n s).srom = s.srom := rfl
@[simp] theorem setPosition_ldisc (n : Nat) (s : State) : (setPosition n s).ldisc = s.ldisc := rfl
@[simp] theorem setPosition_crc (n : Nat) (s : State) : (setPosition n s).crc = s.crc := rfl
@[simp] theorem setPosition_tnum (n : Nat) (s : State) : (setPosition n s).tnum = s.tnum := rfl
@[simp] theorem setPosition_tden (n : Nat) (s : State) : (setPosition n s).tden = s.tden := rfl
@[simp] theorem setPosition_tc100 (n : Nat) (s : State) : (setPosition n s).tc100 = s.tc100 := rfl
@[simp] theorem setPosition_res (n : Nat) (s : State) : (setPosition n s).res = s.res := rfl
@[simp] theorem setPosition_opc (n : Nat) (s : State) : (setPosition n s).opc = s.opc := rfl
@[simp] theorem setPosition_arg (n : Nat) (s : State) : (setPosition n s).arg = s.arg := rfl
@[simp] theorem setPosition_stepIx (n : Nat) (s : State) : (setPosition n s).stepIx = s.stepIx := rfl
@[simp] theorem setPosition_byteIx (n : Nat) (s : State) : (setPosition n s).byteIx = s.byteIx := rfl
@[simp] theorem setPosition_bitIx (n : Nat) (s : State) : (setPosition n s).bitIx = s.bitIx := rfl
@[simp] theorem setPosition_shreg (n : Nat) (s : State) : (setPosition n s).shreg = s.shreg := rfl
@[simp] theorem setPosition_tcnt (n : Nat) (s : State) : (setPosition n s).tcnt = s.tcnt := rfl
@[simp] theorem setPosition_wrom (n : Nat) (s : State) : (setPosition n s).wrom = s.wrom := rfl
@[simp] theorem setPosition_pos (n : Nat) (s : State) : (setPosition n s).pos = BitVec.ofNat 7 n := rfl
@[simp] theorem setPosition_ndisc (n : Nat) (s : State) : (setPosition n s).ndisc = s.ndisc := rfl
@[simp] theorem setPosition_idb (n : Nat) (s : State) : (setPosition n s).idb = s.idb := rfl
@[simp] theorem setPosition_cmpb (n : Nat) (s : State) : (setPosition n s).cmpb = s.cmpb := rfl
@[simp] theorem setPosition_hold (n : Nat) (s : State) : (setPosition n s).hold = s.hold := rfl
@[simp] theorem setPosition_inputs (n : Nat) (s : State) : (setPosition n s).inputs = s.inputs := rfl
@[simp] theorem setPosition_line (n : Nat) (s : State) : (setPosition n s).line = s.line := rfl
@[simp] theorem setPosition_draws (n : Nat) (s : State) : (setPosition n s).draws = s.draws := rfl
@[simp] theorem setPosition_readDraws (n : Nat) (s : State) :
    (setPosition n s).readDraws = s.readDraws := rfl
@[simp] theorem setPosition_trace (n : Nat) (s : State) : (setPosition n s).trace = s.trace := rfl
@[simp] theorem setPosition_ticks (n : Nat) (s : State) : (setPosition n s).ticks = s.ticks := rfl

/-! ### setIdb (R50) -/

@[simp] theorem setIdb_owOut (b : Bool) (s : State) : (setIdb b s).owOut = s.owOut := rfl
@[simp] theorem setIdb_crit (b : Bool) (s : State) : (setIdb b s).crit = s.crit := rfl
@[simp] theorem setIdb_busy (b : Bool) (s : State) : (setIdb b s).busy = s.busy := rfl
@[simp] theorem setIdb_hRdata (b : Bool) (s : State) : (setIdb b s).hRdata = s.hRdata := rfl
@[simp] theorem setIdb_spul (b : Bool) (s : State) : (setIdb b s).spul = s.spul := rfl
@[simp] theorem setIdb_presence (b : Bool) (s : State) : (setIdb b s).presence = s.presence := rfl
@[simp] theorem setIdb_found (b : Bool) (s : State) : (setIdb b s).found = s.found := rfl
@[simp] theorem setIdb_pmode (b : Bool) (s : State) : (setIdb b s).pmode = s.pmode := rfl
@[simp] theorem setIdb_tvalid (b : Bool) (s : State) : (setIdb b s).tvalid = s.tvalid := rfl
@[simp] theorem setIdb_cause (b : Bool) (s : State) : (setIdb b s).cause = s.cause := rfl
@[simp] theorem setIdb_info (b : Bool) (s : State) : (setIdb b s).info = s.info := rfl
@[simp] theorem setIdb_spuEn (b : Bool) (s : State) : (setIdb b s).spuEn = s.spuEn := rfl
@[simp] theorem setIdb_data (b : Bool) (s : State) : (setIdb b s).data = s.data := rfl
@[simp] theorem setIdb_buf (b : Bool) (s : State) : (setIdb b s).buf = s.buf := rfl
@[simp] theorem setIdb_rom (b : Bool) (s : State) : (setIdb b s).rom = s.rom := rfl
@[simp] theorem setIdb_srom (b : Bool) (s : State) : (setIdb b s).srom = s.srom := rfl
@[simp] theorem setIdb_ldisc (b : Bool) (s : State) : (setIdb b s).ldisc = s.ldisc := rfl
@[simp] theorem setIdb_crc (b : Bool) (s : State) : (setIdb b s).crc = s.crc := rfl
@[simp] theorem setIdb_tnum (b : Bool) (s : State) : (setIdb b s).tnum = s.tnum := rfl
@[simp] theorem setIdb_tden (b : Bool) (s : State) : (setIdb b s).tden = s.tden := rfl
@[simp] theorem setIdb_tc100 (b : Bool) (s : State) : (setIdb b s).tc100 = s.tc100 := rfl
@[simp] theorem setIdb_res (b : Bool) (s : State) : (setIdb b s).res = s.res := rfl
@[simp] theorem setIdb_opc (b : Bool) (s : State) : (setIdb b s).opc = s.opc := rfl
@[simp] theorem setIdb_arg (b : Bool) (s : State) : (setIdb b s).arg = s.arg := rfl
@[simp] theorem setIdb_stepIx (b : Bool) (s : State) : (setIdb b s).stepIx = s.stepIx := rfl
@[simp] theorem setIdb_byteIx (b : Bool) (s : State) : (setIdb b s).byteIx = s.byteIx := rfl
@[simp] theorem setIdb_bitIx (b : Bool) (s : State) : (setIdb b s).bitIx = s.bitIx := rfl
@[simp] theorem setIdb_shreg (b : Bool) (s : State) : (setIdb b s).shreg = s.shreg := rfl
@[simp] theorem setIdb_tcnt (b : Bool) (s : State) : (setIdb b s).tcnt = s.tcnt := rfl
@[simp] theorem setIdb_wrom (b : Bool) (s : State) : (setIdb b s).wrom = s.wrom := rfl
@[simp] theorem setIdb_pos (b : Bool) (s : State) : (setIdb b s).pos = s.pos := rfl
@[simp] theorem setIdb_ndisc (b : Bool) (s : State) : (setIdb b s).ndisc = s.ndisc := rfl
@[simp] theorem setIdb_idb (b : Bool) (s : State) : (setIdb b s).idb = b := rfl
@[simp] theorem setIdb_cmpb (b : Bool) (s : State) : (setIdb b s).cmpb = s.cmpb := rfl
@[simp] theorem setIdb_hold (b : Bool) (s : State) : (setIdb b s).hold = s.hold := rfl
@[simp] theorem setIdb_inputs (b : Bool) (s : State) : (setIdb b s).inputs = s.inputs := rfl
@[simp] theorem setIdb_line (b : Bool) (s : State) : (setIdb b s).line = s.line := rfl
@[simp] theorem setIdb_draws (b : Bool) (s : State) : (setIdb b s).draws = s.draws := rfl
@[simp] theorem setIdb_readDraws (b : Bool) (s : State) : (setIdb b s).readDraws = s.readDraws := rfl
@[simp] theorem setIdb_trace (b : Bool) (s : State) : (setIdb b s).trace = s.trace := rfl
@[simp] theorem setIdb_ticks (b : Bool) (s : State) : (setIdb b s).ticks = s.ticks := rfl

/-! ### setCmpb (R50) -/

@[simp] theorem setCmpb_owOut (b : Bool) (s : State) : (setCmpb b s).owOut = s.owOut := rfl
@[simp] theorem setCmpb_crit (b : Bool) (s : State) : (setCmpb b s).crit = s.crit := rfl
@[simp] theorem setCmpb_busy (b : Bool) (s : State) : (setCmpb b s).busy = s.busy := rfl
@[simp] theorem setCmpb_hRdata (b : Bool) (s : State) : (setCmpb b s).hRdata = s.hRdata := rfl
@[simp] theorem setCmpb_spul (b : Bool) (s : State) : (setCmpb b s).spul = s.spul := rfl
@[simp] theorem setCmpb_presence (b : Bool) (s : State) : (setCmpb b s).presence = s.presence := rfl
@[simp] theorem setCmpb_found (b : Bool) (s : State) : (setCmpb b s).found = s.found := rfl
@[simp] theorem setCmpb_pmode (b : Bool) (s : State) : (setCmpb b s).pmode = s.pmode := rfl
@[simp] theorem setCmpb_tvalid (b : Bool) (s : State) : (setCmpb b s).tvalid = s.tvalid := rfl
@[simp] theorem setCmpb_cause (b : Bool) (s : State) : (setCmpb b s).cause = s.cause := rfl
@[simp] theorem setCmpb_info (b : Bool) (s : State) : (setCmpb b s).info = s.info := rfl
@[simp] theorem setCmpb_spuEn (b : Bool) (s : State) : (setCmpb b s).spuEn = s.spuEn := rfl
@[simp] theorem setCmpb_data (b : Bool) (s : State) : (setCmpb b s).data = s.data := rfl
@[simp] theorem setCmpb_buf (b : Bool) (s : State) : (setCmpb b s).buf = s.buf := rfl
@[simp] theorem setCmpb_rom (b : Bool) (s : State) : (setCmpb b s).rom = s.rom := rfl
@[simp] theorem setCmpb_srom (b : Bool) (s : State) : (setCmpb b s).srom = s.srom := rfl
@[simp] theorem setCmpb_ldisc (b : Bool) (s : State) : (setCmpb b s).ldisc = s.ldisc := rfl
@[simp] theorem setCmpb_crc (b : Bool) (s : State) : (setCmpb b s).crc = s.crc := rfl
@[simp] theorem setCmpb_tnum (b : Bool) (s : State) : (setCmpb b s).tnum = s.tnum := rfl
@[simp] theorem setCmpb_tden (b : Bool) (s : State) : (setCmpb b s).tden = s.tden := rfl
@[simp] theorem setCmpb_tc100 (b : Bool) (s : State) : (setCmpb b s).tc100 = s.tc100 := rfl
@[simp] theorem setCmpb_res (b : Bool) (s : State) : (setCmpb b s).res = s.res := rfl
@[simp] theorem setCmpb_opc (b : Bool) (s : State) : (setCmpb b s).opc = s.opc := rfl
@[simp] theorem setCmpb_arg (b : Bool) (s : State) : (setCmpb b s).arg = s.arg := rfl
@[simp] theorem setCmpb_stepIx (b : Bool) (s : State) : (setCmpb b s).stepIx = s.stepIx := rfl
@[simp] theorem setCmpb_byteIx (b : Bool) (s : State) : (setCmpb b s).byteIx = s.byteIx := rfl
@[simp] theorem setCmpb_bitIx (b : Bool) (s : State) : (setCmpb b s).bitIx = s.bitIx := rfl
@[simp] theorem setCmpb_shreg (b : Bool) (s : State) : (setCmpb b s).shreg = s.shreg := rfl
@[simp] theorem setCmpb_tcnt (b : Bool) (s : State) : (setCmpb b s).tcnt = s.tcnt := rfl
@[simp] theorem setCmpb_wrom (b : Bool) (s : State) : (setCmpb b s).wrom = s.wrom := rfl
@[simp] theorem setCmpb_pos (b : Bool) (s : State) : (setCmpb b s).pos = s.pos := rfl
@[simp] theorem setCmpb_ndisc (b : Bool) (s : State) : (setCmpb b s).ndisc = s.ndisc := rfl
@[simp] theorem setCmpb_idb (b : Bool) (s : State) : (setCmpb b s).idb = s.idb := rfl
@[simp] theorem setCmpb_cmpb (b : Bool) (s : State) : (setCmpb b s).cmpb = b := rfl
@[simp] theorem setCmpb_hold (b : Bool) (s : State) : (setCmpb b s).hold = s.hold := rfl
@[simp] theorem setCmpb_inputs (b : Bool) (s : State) : (setCmpb b s).inputs = s.inputs := rfl
@[simp] theorem setCmpb_line (b : Bool) (s : State) : (setCmpb b s).line = s.line := rfl
@[simp] theorem setCmpb_draws (b : Bool) (s : State) : (setCmpb b s).draws = s.draws := rfl
@[simp] theorem setCmpb_readDraws (b : Bool) (s : State) : (setCmpb b s).readDraws = s.readDraws := rfl
@[simp] theorem setCmpb_trace (b : Bool) (s : State) : (setCmpb b s).trace = s.trace := rfl
@[simp] theorem setCmpb_ticks (b : Bool) (s : State) : (setCmpb b s).ticks = s.ticks := rfl

/-! ### clearWork (R207) -/

@[simp] theorem clearWork_owOut (s : State) : (clearWork s).owOut = s.owOut := rfl
@[simp] theorem clearWork_crit (s : State) : (clearWork s).crit = s.crit := rfl
@[simp] theorem clearWork_busy (s : State) : (clearWork s).busy = s.busy := rfl
@[simp] theorem clearWork_hRdata (s : State) : (clearWork s).hRdata = s.hRdata := rfl
@[simp] theorem clearWork_spul (s : State) : (clearWork s).spul = s.spul := rfl
@[simp] theorem clearWork_presence (s : State) : (clearWork s).presence = s.presence := rfl
@[simp] theorem clearWork_found (s : State) : (clearWork s).found = s.found := rfl
@[simp] theorem clearWork_pmode (s : State) : (clearWork s).pmode = s.pmode := rfl
@[simp] theorem clearWork_tvalid (s : State) : (clearWork s).tvalid = s.tvalid := rfl
@[simp] theorem clearWork_cause (s : State) : (clearWork s).cause = s.cause := rfl
@[simp] theorem clearWork_info (s : State) : (clearWork s).info = s.info := rfl
@[simp] theorem clearWork_spuEn (s : State) : (clearWork s).spuEn = s.spuEn := rfl
@[simp] theorem clearWork_data (s : State) : (clearWork s).data = s.data := rfl
@[simp] theorem clearWork_buf (s : State) : (clearWork s).buf = s.buf := rfl
@[simp] theorem clearWork_rom (s : State) : (clearWork s).rom = s.rom := rfl
@[simp] theorem clearWork_srom (s : State) : (clearWork s).srom = s.srom := rfl
@[simp] theorem clearWork_ldisc (s : State) : (clearWork s).ldisc = s.ldisc := rfl
@[simp] theorem clearWork_crc (s : State) : (clearWork s).crc = s.crc := rfl
@[simp] theorem clearWork_tnum (s : State) : (clearWork s).tnum = s.tnum := rfl
@[simp] theorem clearWork_tden (s : State) : (clearWork s).tden = s.tden := rfl
@[simp] theorem clearWork_tc100 (s : State) : (clearWork s).tc100 = s.tc100 := rfl
@[simp] theorem clearWork_res (s : State) : (clearWork s).res = s.res := rfl
@[simp] theorem clearWork_opc (s : State) : (clearWork s).opc = s.opc := rfl
@[simp] theorem clearWork_arg (s : State) : (clearWork s).arg = s.arg := rfl
@[simp] theorem clearWork_stepIx (s : State) : (clearWork s).stepIx = s.stepIx := rfl
@[simp] theorem clearWork_byteIx (s : State) : (clearWork s).byteIx = s.byteIx := rfl
@[simp] theorem clearWork_bitIx (s : State) : (clearWork s).bitIx = s.bitIx := rfl
@[simp] theorem clearWork_shreg (s : State) : (clearWork s).shreg = s.shreg := rfl
@[simp] theorem clearWork_tcnt (s : State) : (clearWork s).tcnt = s.tcnt := rfl
@[simp] theorem clearWork_wrom (s : State) : (clearWork s).wrom = Vector.replicate 8 0x00 := rfl
@[simp] theorem clearWork_pos (s : State) : (clearWork s).pos = s.pos := rfl
@[simp] theorem clearWork_ndisc (s : State) : (clearWork s).ndisc = 0 := rfl
@[simp] theorem clearWork_idb (s : State) : (clearWork s).idb = s.idb := rfl
@[simp] theorem clearWork_cmpb (s : State) : (clearWork s).cmpb = s.cmpb := rfl
@[simp] theorem clearWork_hold (s : State) : (clearWork s).hold = s.hold := rfl
@[simp] theorem clearWork_inputs (s : State) : (clearWork s).inputs = s.inputs := rfl
@[simp] theorem clearWork_line (s : State) : (clearWork s).line = s.line := rfl
@[simp] theorem clearWork_draws (s : State) : (clearWork s).draws = s.draws := rfl
@[simp] theorem clearWork_readDraws (s : State) : (clearWork s).readDraws = s.readDraws := rfl
@[simp] theorem clearWork_trace (s : State) : (clearWork s).trace = s.trace := rfl
@[simp] theorem clearWork_ticks (s : State) : (clearWork s).ticks = s.ticks := rfl

/-! ### commitSearch (R211) -/

@[simp] theorem commitSearch_owOut (s : State) : (commitSearch s).owOut = s.owOut := rfl
@[simp] theorem commitSearch_crit (s : State) : (commitSearch s).crit = s.crit := rfl
@[simp] theorem commitSearch_busy (s : State) : (commitSearch s).busy = s.busy := rfl
@[simp] theorem commitSearch_hRdata (s : State) : (commitSearch s).hRdata = s.hRdata := rfl
@[simp] theorem commitSearch_spul (s : State) : (commitSearch s).spul = s.spul := rfl
@[simp] theorem commitSearch_presence (s : State) : (commitSearch s).presence = s.presence := rfl
@[simp] theorem commitSearch_found (s : State) : (commitSearch s).found = true := rfl
@[simp] theorem commitSearch_pmode (s : State) : (commitSearch s).pmode = s.pmode := rfl
@[simp] theorem commitSearch_tvalid (s : State) : (commitSearch s).tvalid = s.tvalid := rfl
@[simp] theorem commitSearch_cause (s : State) : (commitSearch s).cause = s.cause := rfl
@[simp] theorem commitSearch_info (s : State) : (commitSearch s).info = s.info := rfl
@[simp] theorem commitSearch_spuEn (s : State) : (commitSearch s).spuEn = s.spuEn := rfl
@[simp] theorem commitSearch_data (s : State) : (commitSearch s).data = s.data := rfl
@[simp] theorem commitSearch_buf (s : State) : (commitSearch s).buf = s.buf := rfl
@[simp] theorem commitSearch_rom (s : State) : (commitSearch s).rom = s.rom := rfl
@[simp] theorem commitSearch_srom (s : State) : (commitSearch s).srom = s.wrom := rfl
@[simp] theorem commitSearch_ldisc (s : State) : (commitSearch s).ldisc = s.ndisc := rfl
@[simp] theorem commitSearch_crc (s : State) : (commitSearch s).crc = s.crc := rfl
@[simp] theorem commitSearch_tnum (s : State) : (commitSearch s).tnum = s.tnum := rfl
@[simp] theorem commitSearch_tden (s : State) : (commitSearch s).tden = s.tden := rfl
@[simp] theorem commitSearch_tc100 (s : State) : (commitSearch s).tc100 = s.tc100 := rfl
@[simp] theorem commitSearch_res (s : State) : (commitSearch s).res = s.res := rfl
@[simp] theorem commitSearch_opc (s : State) : (commitSearch s).opc = s.opc := rfl
@[simp] theorem commitSearch_arg (s : State) : (commitSearch s).arg = s.arg := rfl
@[simp] theorem commitSearch_stepIx (s : State) : (commitSearch s).stepIx = s.stepIx := rfl
@[simp] theorem commitSearch_byteIx (s : State) : (commitSearch s).byteIx = s.byteIx := rfl
@[simp] theorem commitSearch_bitIx (s : State) : (commitSearch s).bitIx = s.bitIx := rfl
@[simp] theorem commitSearch_shreg (s : State) : (commitSearch s).shreg = s.shreg := rfl
@[simp] theorem commitSearch_tcnt (s : State) : (commitSearch s).tcnt = s.tcnt := rfl
@[simp] theorem commitSearch_wrom (s : State) : (commitSearch s).wrom = s.wrom := rfl
@[simp] theorem commitSearch_pos (s : State) : (commitSearch s).pos = s.pos := rfl
@[simp] theorem commitSearch_ndisc (s : State) : (commitSearch s).ndisc = s.ndisc := rfl
@[simp] theorem commitSearch_idb (s : State) : (commitSearch s).idb = s.idb := rfl
@[simp] theorem commitSearch_cmpb (s : State) : (commitSearch s).cmpb = s.cmpb := rfl
@[simp] theorem commitSearch_hold (s : State) : (commitSearch s).hold = s.hold := rfl
@[simp] theorem commitSearch_inputs (s : State) : (commitSearch s).inputs = s.inputs := rfl
@[simp] theorem commitSearch_line (s : State) : (commitSearch s).line = s.line := rfl
@[simp] theorem commitSearch_draws (s : State) : (commitSearch s).draws = s.draws := rfl
@[simp] theorem commitSearch_readDraws (s : State) : (commitSearch s).readDraws = s.readDraws := rfl
@[simp] theorem commitSearch_trace (s : State) : (commitSearch s).trace = s.trace := rfl
@[simp] theorem commitSearch_ticks (s : State) : (commitSearch s).ticks = s.ticks := rfl

/-! ### setStepIx (R49) -/

@[simp] theorem setStepIx_owOut (k : Nat) (s : State) : (setStepIx k s).owOut = s.owOut := rfl
@[simp] theorem setStepIx_crit (k : Nat) (s : State) : (setStepIx k s).crit = s.crit := rfl
@[simp] theorem setStepIx_busy (k : Nat) (s : State) : (setStepIx k s).busy = s.busy := rfl
@[simp] theorem setStepIx_hRdata (k : Nat) (s : State) : (setStepIx k s).hRdata = s.hRdata := rfl
@[simp] theorem setStepIx_spul (k : Nat) (s : State) : (setStepIx k s).spul = s.spul := rfl
@[simp] theorem setStepIx_presence (k : Nat) (s : State) : (setStepIx k s).presence = s.presence := rfl
@[simp] theorem setStepIx_found (k : Nat) (s : State) : (setStepIx k s).found = s.found := rfl
@[simp] theorem setStepIx_pmode (k : Nat) (s : State) : (setStepIx k s).pmode = s.pmode := rfl
@[simp] theorem setStepIx_tvalid (k : Nat) (s : State) : (setStepIx k s).tvalid = s.tvalid := rfl
@[simp] theorem setStepIx_cause (k : Nat) (s : State) : (setStepIx k s).cause = s.cause := rfl
@[simp] theorem setStepIx_info (k : Nat) (s : State) : (setStepIx k s).info = s.info := rfl
@[simp] theorem setStepIx_spuEn (k : Nat) (s : State) : (setStepIx k s).spuEn = s.spuEn := rfl
@[simp] theorem setStepIx_data (k : Nat) (s : State) : (setStepIx k s).data = s.data := rfl
@[simp] theorem setStepIx_buf (k : Nat) (s : State) : (setStepIx k s).buf = s.buf := rfl
@[simp] theorem setStepIx_rom (k : Nat) (s : State) : (setStepIx k s).rom = s.rom := rfl
@[simp] theorem setStepIx_srom (k : Nat) (s : State) : (setStepIx k s).srom = s.srom := rfl
@[simp] theorem setStepIx_ldisc (k : Nat) (s : State) : (setStepIx k s).ldisc = s.ldisc := rfl
@[simp] theorem setStepIx_crc (k : Nat) (s : State) : (setStepIx k s).crc = s.crc := rfl
@[simp] theorem setStepIx_tnum (k : Nat) (s : State) : (setStepIx k s).tnum = s.tnum := rfl
@[simp] theorem setStepIx_tden (k : Nat) (s : State) : (setStepIx k s).tden = s.tden := rfl
@[simp] theorem setStepIx_tc100 (k : Nat) (s : State) : (setStepIx k s).tc100 = s.tc100 := rfl
@[simp] theorem setStepIx_res (k : Nat) (s : State) : (setStepIx k s).res = s.res := rfl
@[simp] theorem setStepIx_opc (k : Nat) (s : State) : (setStepIx k s).opc = s.opc := rfl
@[simp] theorem setStepIx_arg (k : Nat) (s : State) : (setStepIx k s).arg = s.arg := rfl
@[simp] theorem setStepIx_stepIx (k : Nat) (s : State) : (setStepIx k s).stepIx = k := rfl
@[simp] theorem setStepIx_byteIx (k : Nat) (s : State) : (setStepIx k s).byteIx = s.byteIx := rfl
@[simp] theorem setStepIx_bitIx (k : Nat) (s : State) : (setStepIx k s).bitIx = s.bitIx := rfl
@[simp] theorem setStepIx_shreg (k : Nat) (s : State) : (setStepIx k s).shreg = s.shreg := rfl
@[simp] theorem setStepIx_tcnt (k : Nat) (s : State) : (setStepIx k s).tcnt = s.tcnt := rfl
@[simp] theorem setStepIx_wrom (k : Nat) (s : State) : (setStepIx k s).wrom = s.wrom := rfl
@[simp] theorem setStepIx_pos (k : Nat) (s : State) : (setStepIx k s).pos = s.pos := rfl
@[simp] theorem setStepIx_ndisc (k : Nat) (s : State) : (setStepIx k s).ndisc = s.ndisc := rfl
@[simp] theorem setStepIx_idb (k : Nat) (s : State) : (setStepIx k s).idb = s.idb := rfl
@[simp] theorem setStepIx_cmpb (k : Nat) (s : State) : (setStepIx k s).cmpb = s.cmpb := rfl
@[simp] theorem setStepIx_hold (k : Nat) (s : State) : (setStepIx k s).hold = s.hold := rfl
@[simp] theorem setStepIx_inputs (k : Nat) (s : State) : (setStepIx k s).inputs = s.inputs := rfl
@[simp] theorem setStepIx_line (k : Nat) (s : State) : (setStepIx k s).line = s.line := rfl
@[simp] theorem setStepIx_draws (k : Nat) (s : State) : (setStepIx k s).draws = s.draws := rfl
@[simp] theorem setStepIx_readDraws (k : Nat) (s : State) : (setStepIx k s).readDraws = s.readDraws := rfl
@[simp] theorem setStepIx_trace (k : Nat) (s : State) : (setStepIx k s).trace = s.trace := rfl
@[simp] theorem setStepIx_ticks (k : Nat) (s : State) : (setStepIx k s).ticks = s.ticks := rfl

/-! ### setTcnt (R49) -/

@[simp] theorem setTcnt_owOut (n : Nat) (s : State) : (setTcnt n s).owOut = s.owOut := rfl
@[simp] theorem setTcnt_crit (n : Nat) (s : State) : (setTcnt n s).crit = s.crit := rfl
@[simp] theorem setTcnt_busy (n : Nat) (s : State) : (setTcnt n s).busy = s.busy := rfl
@[simp] theorem setTcnt_hRdata (n : Nat) (s : State) : (setTcnt n s).hRdata = s.hRdata := rfl
@[simp] theorem setTcnt_spul (n : Nat) (s : State) : (setTcnt n s).spul = s.spul := rfl
@[simp] theorem setTcnt_presence (n : Nat) (s : State) : (setTcnt n s).presence = s.presence := rfl
@[simp] theorem setTcnt_found (n : Nat) (s : State) : (setTcnt n s).found = s.found := rfl
@[simp] theorem setTcnt_pmode (n : Nat) (s : State) : (setTcnt n s).pmode = s.pmode := rfl
@[simp] theorem setTcnt_tvalid (n : Nat) (s : State) : (setTcnt n s).tvalid = s.tvalid := rfl
@[simp] theorem setTcnt_cause (n : Nat) (s : State) : (setTcnt n s).cause = s.cause := rfl
@[simp] theorem setTcnt_info (n : Nat) (s : State) : (setTcnt n s).info = s.info := rfl
@[simp] theorem setTcnt_spuEn (n : Nat) (s : State) : (setTcnt n s).spuEn = s.spuEn := rfl
@[simp] theorem setTcnt_data (n : Nat) (s : State) : (setTcnt n s).data = s.data := rfl
@[simp] theorem setTcnt_buf (n : Nat) (s : State) : (setTcnt n s).buf = s.buf := rfl
@[simp] theorem setTcnt_rom (n : Nat) (s : State) : (setTcnt n s).rom = s.rom := rfl
@[simp] theorem setTcnt_srom (n : Nat) (s : State) : (setTcnt n s).srom = s.srom := rfl
@[simp] theorem setTcnt_ldisc (n : Nat) (s : State) : (setTcnt n s).ldisc = s.ldisc := rfl
@[simp] theorem setTcnt_crc (n : Nat) (s : State) : (setTcnt n s).crc = s.crc := rfl
@[simp] theorem setTcnt_tnum (n : Nat) (s : State) : (setTcnt n s).tnum = s.tnum := rfl
@[simp] theorem setTcnt_tden (n : Nat) (s : State) : (setTcnt n s).tden = s.tden := rfl
@[simp] theorem setTcnt_tc100 (n : Nat) (s : State) : (setTcnt n s).tc100 = s.tc100 := rfl
@[simp] theorem setTcnt_res (n : Nat) (s : State) : (setTcnt n s).res = s.res := rfl
@[simp] theorem setTcnt_opc (n : Nat) (s : State) : (setTcnt n s).opc = s.opc := rfl
@[simp] theorem setTcnt_arg (n : Nat) (s : State) : (setTcnt n s).arg = s.arg := rfl
@[simp] theorem setTcnt_stepIx (n : Nat) (s : State) : (setTcnt n s).stepIx = s.stepIx := rfl
@[simp] theorem setTcnt_byteIx (n : Nat) (s : State) : (setTcnt n s).byteIx = s.byteIx := rfl
@[simp] theorem setTcnt_bitIx (n : Nat) (s : State) : (setTcnt n s).bitIx = s.bitIx := rfl
@[simp] theorem setTcnt_shreg (n : Nat) (s : State) : (setTcnt n s).shreg = s.shreg := rfl
@[simp] theorem setTcnt_tcnt (n : Nat) (s : State) : (setTcnt n s).tcnt = n := rfl
@[simp] theorem setTcnt_wrom (n : Nat) (s : State) : (setTcnt n s).wrom = s.wrom := rfl
@[simp] theorem setTcnt_pos (n : Nat) (s : State) : (setTcnt n s).pos = s.pos := rfl
@[simp] theorem setTcnt_ndisc (n : Nat) (s : State) : (setTcnt n s).ndisc = s.ndisc := rfl
@[simp] theorem setTcnt_idb (n : Nat) (s : State) : (setTcnt n s).idb = s.idb := rfl
@[simp] theorem setTcnt_cmpb (n : Nat) (s : State) : (setTcnt n s).cmpb = s.cmpb := rfl
@[simp] theorem setTcnt_hold (n : Nat) (s : State) : (setTcnt n s).hold = s.hold := rfl
@[simp] theorem setTcnt_inputs (n : Nat) (s : State) : (setTcnt n s).inputs = s.inputs := rfl
@[simp] theorem setTcnt_line (n : Nat) (s : State) : (setTcnt n s).line = s.line := rfl
@[simp] theorem setTcnt_draws (n : Nat) (s : State) : (setTcnt n s).draws = s.draws := rfl
@[simp] theorem setTcnt_readDraws (n : Nat) (s : State) : (setTcnt n s).readDraws = s.readDraws := rfl
@[simp] theorem setTcnt_trace (n : Nat) (s : State) : (setTcnt n s).trace = s.trace := rfl
@[simp] theorem setTcnt_ticks (n : Nat) (s : State) : (setTcnt n s).ticks = s.ticks := rfl

/-! ### setShreg (R49) -/

@[simp] theorem setShreg_owOut (v : Byte) (s : State) : (setShreg v s).owOut = s.owOut := rfl
@[simp] theorem setShreg_crit (v : Byte) (s : State) : (setShreg v s).crit = s.crit := rfl
@[simp] theorem setShreg_busy (v : Byte) (s : State) : (setShreg v s).busy = s.busy := rfl
@[simp] theorem setShreg_hRdata (v : Byte) (s : State) : (setShreg v s).hRdata = s.hRdata := rfl
@[simp] theorem setShreg_spul (v : Byte) (s : State) : (setShreg v s).spul = s.spul := rfl
@[simp] theorem setShreg_presence (v : Byte) (s : State) : (setShreg v s).presence = s.presence := rfl
@[simp] theorem setShreg_found (v : Byte) (s : State) : (setShreg v s).found = s.found := rfl
@[simp] theorem setShreg_pmode (v : Byte) (s : State) : (setShreg v s).pmode = s.pmode := rfl
@[simp] theorem setShreg_tvalid (v : Byte) (s : State) : (setShreg v s).tvalid = s.tvalid := rfl
@[simp] theorem setShreg_cause (v : Byte) (s : State) : (setShreg v s).cause = s.cause := rfl
@[simp] theorem setShreg_info (v : Byte) (s : State) : (setShreg v s).info = s.info := rfl
@[simp] theorem setShreg_spuEn (v : Byte) (s : State) : (setShreg v s).spuEn = s.spuEn := rfl
@[simp] theorem setShreg_data (v : Byte) (s : State) : (setShreg v s).data = s.data := rfl
@[simp] theorem setShreg_buf (v : Byte) (s : State) : (setShreg v s).buf = s.buf := rfl
@[simp] theorem setShreg_rom (v : Byte) (s : State) : (setShreg v s).rom = s.rom := rfl
@[simp] theorem setShreg_srom (v : Byte) (s : State) : (setShreg v s).srom = s.srom := rfl
@[simp] theorem setShreg_ldisc (v : Byte) (s : State) : (setShreg v s).ldisc = s.ldisc := rfl
@[simp] theorem setShreg_crc (v : Byte) (s : State) : (setShreg v s).crc = s.crc := rfl
@[simp] theorem setShreg_tnum (v : Byte) (s : State) : (setShreg v s).tnum = s.tnum := rfl
@[simp] theorem setShreg_tden (v : Byte) (s : State) : (setShreg v s).tden = s.tden := rfl
@[simp] theorem setShreg_tc100 (v : Byte) (s : State) : (setShreg v s).tc100 = s.tc100 := rfl
@[simp] theorem setShreg_res (v : Byte) (s : State) : (setShreg v s).res = s.res := rfl
@[simp] theorem setShreg_opc (v : Byte) (s : State) : (setShreg v s).opc = s.opc := rfl
@[simp] theorem setShreg_arg (v : Byte) (s : State) : (setShreg v s).arg = s.arg := rfl
@[simp] theorem setShreg_stepIx (v : Byte) (s : State) : (setShreg v s).stepIx = s.stepIx := rfl
@[simp] theorem setShreg_byteIx (v : Byte) (s : State) : (setShreg v s).byteIx = s.byteIx := rfl
@[simp] theorem setShreg_bitIx (v : Byte) (s : State) : (setShreg v s).bitIx = s.bitIx := rfl
@[simp] theorem setShreg_shreg (v : Byte) (s : State) : (setShreg v s).shreg = v := rfl
@[simp] theorem setShreg_tcnt (v : Byte) (s : State) : (setShreg v s).tcnt = s.tcnt := rfl
@[simp] theorem setShreg_wrom (v : Byte) (s : State) : (setShreg v s).wrom = s.wrom := rfl
@[simp] theorem setShreg_pos (v : Byte) (s : State) : (setShreg v s).pos = s.pos := rfl
@[simp] theorem setShreg_ndisc (v : Byte) (s : State) : (setShreg v s).ndisc = s.ndisc := rfl
@[simp] theorem setShreg_idb (v : Byte) (s : State) : (setShreg v s).idb = s.idb := rfl
@[simp] theorem setShreg_cmpb (v : Byte) (s : State) : (setShreg v s).cmpb = s.cmpb := rfl
@[simp] theorem setShreg_hold (v : Byte) (s : State) : (setShreg v s).hold = s.hold := rfl
@[simp] theorem setShreg_inputs (v : Byte) (s : State) : (setShreg v s).inputs = s.inputs := rfl
@[simp] theorem setShreg_line (v : Byte) (s : State) : (setShreg v s).line = s.line := rfl
@[simp] theorem setShreg_draws (v : Byte) (s : State) : (setShreg v s).draws = s.draws := rfl
@[simp] theorem setShreg_readDraws (v : Byte) (s : State) : (setShreg v s).readDraws = s.readDraws := rfl
@[simp] theorem setShreg_trace (v : Byte) (s : State) : (setShreg v s).trace = s.trace := rfl
@[simp] theorem setShreg_ticks (v : Byte) (s : State) : (setShreg v s).ticks = s.ticks := rfl

/-! ### nextBit (R49) -/

@[simp] theorem nextBit_owOut (s : State) : (nextBit s).owOut = s.owOut := rfl
@[simp] theorem nextBit_crit (s : State) : (nextBit s).crit = s.crit := rfl
@[simp] theorem nextBit_busy (s : State) : (nextBit s).busy = s.busy := rfl
@[simp] theorem nextBit_hRdata (s : State) : (nextBit s).hRdata = s.hRdata := rfl
@[simp] theorem nextBit_spul (s : State) : (nextBit s).spul = s.spul := rfl
@[simp] theorem nextBit_presence (s : State) : (nextBit s).presence = s.presence := rfl
@[simp] theorem nextBit_found (s : State) : (nextBit s).found = s.found := rfl
@[simp] theorem nextBit_pmode (s : State) : (nextBit s).pmode = s.pmode := rfl
@[simp] theorem nextBit_tvalid (s : State) : (nextBit s).tvalid = s.tvalid := rfl
@[simp] theorem nextBit_cause (s : State) : (nextBit s).cause = s.cause := rfl
@[simp] theorem nextBit_info (s : State) : (nextBit s).info = s.info := rfl
@[simp] theorem nextBit_spuEn (s : State) : (nextBit s).spuEn = s.spuEn := rfl
@[simp] theorem nextBit_data (s : State) : (nextBit s).data = s.data := rfl
@[simp] theorem nextBit_buf (s : State) : (nextBit s).buf = s.buf := rfl
@[simp] theorem nextBit_rom (s : State) : (nextBit s).rom = s.rom := rfl
@[simp] theorem nextBit_srom (s : State) : (nextBit s).srom = s.srom := rfl
@[simp] theorem nextBit_ldisc (s : State) : (nextBit s).ldisc = s.ldisc := rfl
@[simp] theorem nextBit_crc (s : State) : (nextBit s).crc = s.crc := rfl
@[simp] theorem nextBit_tnum (s : State) : (nextBit s).tnum = s.tnum := rfl
@[simp] theorem nextBit_tden (s : State) : (nextBit s).tden = s.tden := rfl
@[simp] theorem nextBit_tc100 (s : State) : (nextBit s).tc100 = s.tc100 := rfl
@[simp] theorem nextBit_res (s : State) : (nextBit s).res = s.res := rfl
@[simp] theorem nextBit_opc (s : State) : (nextBit s).opc = s.opc := rfl
@[simp] theorem nextBit_arg (s : State) : (nextBit s).arg = s.arg := rfl
@[simp] theorem nextBit_stepIx (s : State) : (nextBit s).stepIx = s.stepIx := rfl
@[simp] theorem nextBit_byteIx (s : State) : (nextBit s).byteIx = s.byteIx := rfl
@[simp] theorem nextBit_bitIx (s : State) : (nextBit s).bitIx = s.bitIx + 1 := rfl
@[simp] theorem nextBit_shreg (s : State) : (nextBit s).shreg = s.shreg := rfl
@[simp] theorem nextBit_tcnt (s : State) : (nextBit s).tcnt = 0 := rfl
@[simp] theorem nextBit_wrom (s : State) : (nextBit s).wrom = s.wrom := rfl
@[simp] theorem nextBit_pos (s : State) : (nextBit s).pos = s.pos := rfl
@[simp] theorem nextBit_ndisc (s : State) : (nextBit s).ndisc = s.ndisc := rfl
@[simp] theorem nextBit_idb (s : State) : (nextBit s).idb = s.idb := rfl
@[simp] theorem nextBit_cmpb (s : State) : (nextBit s).cmpb = s.cmpb := rfl
@[simp] theorem nextBit_hold (s : State) : (nextBit s).hold = s.hold := rfl
@[simp] theorem nextBit_inputs (s : State) : (nextBit s).inputs = s.inputs := rfl
@[simp] theorem nextBit_line (s : State) : (nextBit s).line = s.line := rfl
@[simp] theorem nextBit_draws (s : State) : (nextBit s).draws = s.draws := rfl
@[simp] theorem nextBit_readDraws (s : State) : (nextBit s).readDraws = s.readDraws := rfl
@[simp] theorem nextBit_trace (s : State) : (nextBit s).trace = s.trace := rfl
@[simp] theorem nextBit_ticks (s : State) : (nextBit s).ticks = s.ticks := rfl

/-! ### recordSlot (R289) -/

@[simp] theorem recordSlot_owOut (xs : List Slot) (n : Nat) (s : State) :
    (recordSlot xs n s).owOut = s.owOut := rfl
@[simp] theorem recordSlot_crit (xs : List Slot) (n : Nat) (s : State) :
    (recordSlot xs n s).crit = s.crit := rfl
@[simp] theorem recordSlot_busy (xs : List Slot) (n : Nat) (s : State) :
    (recordSlot xs n s).busy = s.busy := rfl
@[simp] theorem recordSlot_hRdata (xs : List Slot) (n : Nat) (s : State) :
    (recordSlot xs n s).hRdata = s.hRdata := rfl
@[simp] theorem recordSlot_spul (xs : List Slot) (n : Nat) (s : State) :
    (recordSlot xs n s).spul = s.spul := rfl
@[simp] theorem recordSlot_presence (xs : List Slot) (n : Nat) (s : State) :
    (recordSlot xs n s).presence = s.presence := rfl
@[simp] theorem recordSlot_found (xs : List Slot) (n : Nat) (s : State) :
    (recordSlot xs n s).found = s.found := rfl
@[simp] theorem recordSlot_pmode (xs : List Slot) (n : Nat) (s : State) :
    (recordSlot xs n s).pmode = s.pmode := rfl
@[simp] theorem recordSlot_tvalid (xs : List Slot) (n : Nat) (s : State) :
    (recordSlot xs n s).tvalid = s.tvalid := rfl
@[simp] theorem recordSlot_cause (xs : List Slot) (n : Nat) (s : State) :
    (recordSlot xs n s).cause = s.cause := rfl
@[simp] theorem recordSlot_info (xs : List Slot) (n : Nat) (s : State) :
    (recordSlot xs n s).info = s.info := rfl
@[simp] theorem recordSlot_spuEn (xs : List Slot) (n : Nat) (s : State) :
    (recordSlot xs n s).spuEn = s.spuEn := rfl
@[simp] theorem recordSlot_data (xs : List Slot) (n : Nat) (s : State) :
    (recordSlot xs n s).data = s.data := rfl
@[simp] theorem recordSlot_buf (xs : List Slot) (n : Nat) (s : State) :
    (recordSlot xs n s).buf = s.buf := rfl
@[simp] theorem recordSlot_rom (xs : List Slot) (n : Nat) (s : State) :
    (recordSlot xs n s).rom = s.rom := rfl
@[simp] theorem recordSlot_srom (xs : List Slot) (n : Nat) (s : State) :
    (recordSlot xs n s).srom = s.srom := rfl
@[simp] theorem recordSlot_ldisc (xs : List Slot) (n : Nat) (s : State) :
    (recordSlot xs n s).ldisc = s.ldisc := rfl
@[simp] theorem recordSlot_crc (xs : List Slot) (n : Nat) (s : State) :
    (recordSlot xs n s).crc = s.crc := rfl
@[simp] theorem recordSlot_tnum (xs : List Slot) (n : Nat) (s : State) :
    (recordSlot xs n s).tnum = s.tnum := rfl
@[simp] theorem recordSlot_tden (xs : List Slot) (n : Nat) (s : State) :
    (recordSlot xs n s).tden = s.tden := rfl
@[simp] theorem recordSlot_tc100 (xs : List Slot) (n : Nat) (s : State) :
    (recordSlot xs n s).tc100 = s.tc100 := rfl
@[simp] theorem recordSlot_res (xs : List Slot) (n : Nat) (s : State) :
    (recordSlot xs n s).res = s.res := rfl
@[simp] theorem recordSlot_opc (xs : List Slot) (n : Nat) (s : State) :
    (recordSlot xs n s).opc = s.opc := rfl
@[simp] theorem recordSlot_arg (xs : List Slot) (n : Nat) (s : State) :
    (recordSlot xs n s).arg = s.arg := rfl
@[simp] theorem recordSlot_stepIx (xs : List Slot) (n : Nat) (s : State) :
    (recordSlot xs n s).stepIx = s.stepIx := rfl
@[simp] theorem recordSlot_byteIx (xs : List Slot) (n : Nat) (s : State) :
    (recordSlot xs n s).byteIx = s.byteIx := rfl
@[simp] theorem recordSlot_bitIx (xs : List Slot) (n : Nat) (s : State) :
    (recordSlot xs n s).bitIx = s.bitIx := rfl
@[simp] theorem recordSlot_shreg (xs : List Slot) (n : Nat) (s : State) :
    (recordSlot xs n s).shreg = s.shreg := rfl
@[simp] theorem recordSlot_tcnt (xs : List Slot) (n : Nat) (s : State) :
    (recordSlot xs n s).tcnt = s.tcnt := rfl
@[simp] theorem recordSlot_wrom (xs : List Slot) (n : Nat) (s : State) :
    (recordSlot xs n s).wrom = s.wrom := rfl
@[simp] theorem recordSlot_pos (xs : List Slot) (n : Nat) (s : State) :
    (recordSlot xs n s).pos = s.pos := rfl
@[simp] theorem recordSlot_ndisc (xs : List Slot) (n : Nat) (s : State) :
    (recordSlot xs n s).ndisc = s.ndisc := rfl
@[simp] theorem recordSlot_idb (xs : List Slot) (n : Nat) (s : State) :
    (recordSlot xs n s).idb = s.idb := rfl
@[simp] theorem recordSlot_cmpb (xs : List Slot) (n : Nat) (s : State) :
    (recordSlot xs n s).cmpb = s.cmpb := rfl
@[simp] theorem recordSlot_hold (xs : List Slot) (n : Nat) (s : State) :
    (recordSlot xs n s).hold = s.hold := rfl
@[simp] theorem recordSlot_inputs (xs : List Slot) (n : Nat) (s : State) :
    (recordSlot xs n s).inputs = s.inputs := rfl
@[simp] theorem recordSlot_line (xs : List Slot) (n : Nat) (s : State) :
    (recordSlot xs n s).line = s.line := rfl
@[simp] theorem recordSlot_draws (xs : List Slot) (n : Nat) (s : State) :
    (recordSlot xs n s).draws = s.draws := rfl
@[simp] theorem recordSlot_readDraws (xs : List Slot) (n : Nat) (s : State) :
    (recordSlot xs n s).readDraws = s.readDraws := rfl
@[simp] theorem recordSlot_trace (xs : List Slot) (n : Nat) (s : State) :
    (recordSlot xs n s).trace = s.trace ++ xs := rfl
@[simp] theorem recordSlot_ticks (xs : List Slot) (n : Nat) (s : State) :
    (recordSlot xs n s).ticks = s.ticks + n := rfl

/-! ### beginByte (R49) -/

@[simp] theorem beginByte_owOut (p : Prim) (k : Nat) (s : State) : (beginByte p k s).owOut = s.owOut := rfl
@[simp] theorem beginByte_crit (p : Prim) (k : Nat) (s : State) : (beginByte p k s).crit = s.crit := rfl
@[simp] theorem beginByte_busy (p : Prim) (k : Nat) (s : State) : (beginByte p k s).busy = s.busy := rfl
@[simp] theorem beginByte_hRdata (p : Prim) (k : Nat) (s : State) :
    (beginByte p k s).hRdata = s.hRdata := rfl
@[simp] theorem beginByte_spul (p : Prim) (k : Nat) (s : State) : (beginByte p k s).spul = s.spul := rfl
@[simp] theorem beginByte_presence (p : Prim) (k : Nat) (s : State) :
    (beginByte p k s).presence = s.presence := rfl
@[simp] theorem beginByte_found (p : Prim) (k : Nat) (s : State) : (beginByte p k s).found = s.found := rfl
@[simp] theorem beginByte_pmode (p : Prim) (k : Nat) (s : State) : (beginByte p k s).pmode = s.pmode := rfl
@[simp] theorem beginByte_tvalid (p : Prim) (k : Nat) (s : State) :
    (beginByte p k s).tvalid = s.tvalid := rfl
@[simp] theorem beginByte_cause (p : Prim) (k : Nat) (s : State) : (beginByte p k s).cause = s.cause := rfl
@[simp] theorem beginByte_info (p : Prim) (k : Nat) (s : State) : (beginByte p k s).info = s.info := rfl
@[simp] theorem beginByte_spuEn (p : Prim) (k : Nat) (s : State) : (beginByte p k s).spuEn = s.spuEn := rfl
@[simp] theorem beginByte_data (p : Prim) (k : Nat) (s : State) : (beginByte p k s).data = s.data := rfl
@[simp] theorem beginByte_buf (p : Prim) (k : Nat) (s : State) : (beginByte p k s).buf = s.buf := rfl
@[simp] theorem beginByte_rom (p : Prim) (k : Nat) (s : State) : (beginByte p k s).rom = s.rom := rfl
@[simp] theorem beginByte_srom (p : Prim) (k : Nat) (s : State) : (beginByte p k s).srom = s.srom := rfl
@[simp] theorem beginByte_ldisc (p : Prim) (k : Nat) (s : State) : (beginByte p k s).ldisc = s.ldisc := rfl
@[simp] theorem beginByte_crc (p : Prim) (k : Nat) (s : State) : (beginByte p k s).crc = s.crc := rfl
@[simp] theorem beginByte_tnum (p : Prim) (k : Nat) (s : State) : (beginByte p k s).tnum = s.tnum := rfl
@[simp] theorem beginByte_tden (p : Prim) (k : Nat) (s : State) : (beginByte p k s).tden = s.tden := rfl
@[simp] theorem beginByte_tc100 (p : Prim) (k : Nat) (s : State) : (beginByte p k s).tc100 = s.tc100 := rfl
@[simp] theorem beginByte_res (p : Prim) (k : Nat) (s : State) : (beginByte p k s).res = s.res := rfl
@[simp] theorem beginByte_opc (p : Prim) (k : Nat) (s : State) : (beginByte p k s).opc = s.opc := rfl
@[simp] theorem beginByte_arg (p : Prim) (k : Nat) (s : State) : (beginByte p k s).arg = s.arg := rfl
@[simp] theorem beginByte_stepIx (p : Prim) (k : Nat) (s : State) :
    (beginByte p k s).stepIx = s.stepIx := rfl
@[simp] theorem beginByte_byteIx (p : Prim) (k : Nat) (s : State) : (beginByte p k s).byteIx = k := rfl
@[simp] theorem beginByte_bitIx (p : Prim) (k : Nat) (s : State) : (beginByte p k s).bitIx = 0 := rfl
@[simp] theorem beginByte_shreg (p : Prim) (k : Nat) (s : State) :
    (beginByte p k s).shreg = p.loadByte k s := rfl
@[simp] theorem beginByte_tcnt (p : Prim) (k : Nat) (s : State) : (beginByte p k s).tcnt = 0 := rfl
@[simp] theorem beginByte_wrom (p : Prim) (k : Nat) (s : State) : (beginByte p k s).wrom = s.wrom := rfl
@[simp] theorem beginByte_pos (p : Prim) (k : Nat) (s : State) : (beginByte p k s).pos = s.pos := rfl
@[simp] theorem beginByte_ndisc (p : Prim) (k : Nat) (s : State) : (beginByte p k s).ndisc = s.ndisc := rfl
@[simp] theorem beginByte_idb (p : Prim) (k : Nat) (s : State) : (beginByte p k s).idb = s.idb := rfl
@[simp] theorem beginByte_cmpb (p : Prim) (k : Nat) (s : State) : (beginByte p k s).cmpb = s.cmpb := rfl
@[simp] theorem beginByte_hold (p : Prim) (k : Nat) (s : State) : (beginByte p k s).hold = s.hold := rfl
@[simp] theorem beginByte_inputs (p : Prim) (k : Nat) (s : State) :
    (beginByte p k s).inputs = s.inputs := rfl
@[simp] theorem beginByte_line (p : Prim) (k : Nat) (s : State) : (beginByte p k s).line = s.line := rfl
@[simp] theorem beginByte_draws (p : Prim) (k : Nat) (s : State) : (beginByte p k s).draws = s.draws := rfl
@[simp] theorem beginByte_readDraws (p : Prim) (k : Nat) (s : State) :
    (beginByte p k s).readDraws = s.readDraws := rfl
@[simp] theorem beginByte_trace (p : Prim) (k : Nat) (s : State) : (beginByte p k s).trace = s.trace := rfl
@[simp] theorem beginByte_ticks (p : Prim) (k : Nat) (s : State) : (beginByte p k s).ticks = s.ticks := rfl

/-! ### setHold (R283) -/

@[simp] theorem setHold_owOut (h : Option (Word × Nat)) (s : State) : (setHold h s).owOut = s.owOut := rfl
@[simp] theorem setHold_crit (h : Option (Word × Nat)) (s : State) : (setHold h s).crit = s.crit := rfl
@[simp] theorem setHold_busy (h : Option (Word × Nat)) (s : State) : (setHold h s).busy = s.busy := rfl
@[simp] theorem setHold_hRdata (h : Option (Word × Nat)) (s : State) :
    (setHold h s).hRdata = s.hRdata := rfl
@[simp] theorem setHold_spul (h : Option (Word × Nat)) (s : State) : (setHold h s).spul = s.spul := rfl
@[simp] theorem setHold_presence (h : Option (Word × Nat)) (s : State) :
    (setHold h s).presence = s.presence := rfl
@[simp] theorem setHold_found (h : Option (Word × Nat)) (s : State) : (setHold h s).found = s.found := rfl
@[simp] theorem setHold_pmode (h : Option (Word × Nat)) (s : State) : (setHold h s).pmode = s.pmode := rfl
@[simp] theorem setHold_tvalid (h : Option (Word × Nat)) (s : State) :
    (setHold h s).tvalid = s.tvalid := rfl
@[simp] theorem setHold_cause (h : Option (Word × Nat)) (s : State) : (setHold h s).cause = s.cause := rfl
@[simp] theorem setHold_info (h : Option (Word × Nat)) (s : State) : (setHold h s).info = s.info := rfl
@[simp] theorem setHold_spuEn (h : Option (Word × Nat)) (s : State) : (setHold h s).spuEn = s.spuEn := rfl
@[simp] theorem setHold_data (h : Option (Word × Nat)) (s : State) : (setHold h s).data = s.data := rfl
@[simp] theorem setHold_buf (h : Option (Word × Nat)) (s : State) : (setHold h s).buf = s.buf := rfl
@[simp] theorem setHold_rom (h : Option (Word × Nat)) (s : State) : (setHold h s).rom = s.rom := rfl
@[simp] theorem setHold_srom (h : Option (Word × Nat)) (s : State) : (setHold h s).srom = s.srom := rfl
@[simp] theorem setHold_ldisc (h : Option (Word × Nat)) (s : State) : (setHold h s).ldisc = s.ldisc := rfl
@[simp] theorem setHold_crc (h : Option (Word × Nat)) (s : State) : (setHold h s).crc = s.crc := rfl
@[simp] theorem setHold_tnum (h : Option (Word × Nat)) (s : State) : (setHold h s).tnum = s.tnum := rfl
@[simp] theorem setHold_tden (h : Option (Word × Nat)) (s : State) : (setHold h s).tden = s.tden := rfl
@[simp] theorem setHold_tc100 (h : Option (Word × Nat)) (s : State) : (setHold h s).tc100 = s.tc100 := rfl
@[simp] theorem setHold_res (h : Option (Word × Nat)) (s : State) : (setHold h s).res = s.res := rfl
@[simp] theorem setHold_opc (h : Option (Word × Nat)) (s : State) : (setHold h s).opc = s.opc := rfl
@[simp] theorem setHold_arg (h : Option (Word × Nat)) (s : State) : (setHold h s).arg = s.arg := rfl
@[simp] theorem setHold_stepIx (h : Option (Word × Nat)) (s : State) :
    (setHold h s).stepIx = s.stepIx := rfl
@[simp] theorem setHold_byteIx (h : Option (Word × Nat)) (s : State) :
    (setHold h s).byteIx = s.byteIx := rfl
@[simp] theorem setHold_bitIx (h : Option (Word × Nat)) (s : State) : (setHold h s).bitIx = s.bitIx := rfl
@[simp] theorem setHold_shreg (h : Option (Word × Nat)) (s : State) : (setHold h s).shreg = s.shreg := rfl
@[simp] theorem setHold_tcnt (h : Option (Word × Nat)) (s : State) : (setHold h s).tcnt = s.tcnt := rfl
@[simp] theorem setHold_wrom (h : Option (Word × Nat)) (s : State) : (setHold h s).wrom = s.wrom := rfl
@[simp] theorem setHold_pos (h : Option (Word × Nat)) (s : State) : (setHold h s).pos = s.pos := rfl
@[simp] theorem setHold_ndisc (h : Option (Word × Nat)) (s : State) : (setHold h s).ndisc = s.ndisc := rfl
@[simp] theorem setHold_idb (h : Option (Word × Nat)) (s : State) : (setHold h s).idb = s.idb := rfl
@[simp] theorem setHold_cmpb (h : Option (Word × Nat)) (s : State) : (setHold h s).cmpb = s.cmpb := rfl
@[simp] theorem setHold_hold (h : Option (Word × Nat)) (s : State) : (setHold h s).hold = h := rfl
@[simp] theorem setHold_inputs (h : Option (Word × Nat)) (s : State) :
    (setHold h s).inputs = s.inputs := rfl
@[simp] theorem setHold_line (h : Option (Word × Nat)) (s : State) : (setHold h s).line = s.line := rfl
@[simp] theorem setHold_draws (h : Option (Word × Nat)) (s : State) : (setHold h s).draws = s.draws := rfl
@[simp] theorem setHold_readDraws (h : Option (Word × Nat)) (s : State) :
    (setHold h s).readDraws = s.readDraws := rfl
@[simp] theorem setHold_trace (h : Option (Word × Nat)) (s : State) : (setHold h s).trace = s.trace := rfl
@[simp] theorem setHold_ticks (h : Option (Word × Nat)) (s : State) : (setHold h s).ticks = s.ticks := rfl

/-! ### setRdata (R26) -/

@[simp] theorem setRdata_owOut (v : Word) (s : State) : (setRdata v s).owOut = s.owOut := rfl
@[simp] theorem setRdata_crit (v : Word) (s : State) : (setRdata v s).crit = s.crit := rfl
@[simp] theorem setRdata_busy (v : Word) (s : State) : (setRdata v s).busy = s.busy := rfl
@[simp] theorem setRdata_hRdata (v : Word) (s : State) : (setRdata v s).hRdata = some v := rfl
@[simp] theorem setRdata_spul (v : Word) (s : State) : (setRdata v s).spul = s.spul := rfl
@[simp] theorem setRdata_presence (v : Word) (s : State) : (setRdata v s).presence = s.presence := rfl
@[simp] theorem setRdata_found (v : Word) (s : State) : (setRdata v s).found = s.found := rfl
@[simp] theorem setRdata_pmode (v : Word) (s : State) : (setRdata v s).pmode = s.pmode := rfl
@[simp] theorem setRdata_tvalid (v : Word) (s : State) : (setRdata v s).tvalid = s.tvalid := rfl
@[simp] theorem setRdata_cause (v : Word) (s : State) : (setRdata v s).cause = s.cause := rfl
@[simp] theorem setRdata_info (v : Word) (s : State) : (setRdata v s).info = s.info := rfl
@[simp] theorem setRdata_spuEn (v : Word) (s : State) : (setRdata v s).spuEn = s.spuEn := rfl
@[simp] theorem setRdata_data (v : Word) (s : State) : (setRdata v s).data = s.data := rfl
@[simp] theorem setRdata_buf (v : Word) (s : State) : (setRdata v s).buf = s.buf := rfl
@[simp] theorem setRdata_rom (v : Word) (s : State) : (setRdata v s).rom = s.rom := rfl
@[simp] theorem setRdata_srom (v : Word) (s : State) : (setRdata v s).srom = s.srom := rfl
@[simp] theorem setRdata_ldisc (v : Word) (s : State) : (setRdata v s).ldisc = s.ldisc := rfl
@[simp] theorem setRdata_crc (v : Word) (s : State) : (setRdata v s).crc = s.crc := rfl
@[simp] theorem setRdata_tnum (v : Word) (s : State) : (setRdata v s).tnum = s.tnum := rfl
@[simp] theorem setRdata_tden (v : Word) (s : State) : (setRdata v s).tden = s.tden := rfl
@[simp] theorem setRdata_tc100 (v : Word) (s : State) : (setRdata v s).tc100 = s.tc100 := rfl
@[simp] theorem setRdata_res (v : Word) (s : State) : (setRdata v s).res = s.res := rfl
@[simp] theorem setRdata_opc (v : Word) (s : State) : (setRdata v s).opc = s.opc := rfl
@[simp] theorem setRdata_arg (v : Word) (s : State) : (setRdata v s).arg = s.arg := rfl
@[simp] theorem setRdata_stepIx (v : Word) (s : State) : (setRdata v s).stepIx = s.stepIx := rfl
@[simp] theorem setRdata_byteIx (v : Word) (s : State) : (setRdata v s).byteIx = s.byteIx := rfl
@[simp] theorem setRdata_bitIx (v : Word) (s : State) : (setRdata v s).bitIx = s.bitIx := rfl
@[simp] theorem setRdata_shreg (v : Word) (s : State) : (setRdata v s).shreg = s.shreg := rfl
@[simp] theorem setRdata_tcnt (v : Word) (s : State) : (setRdata v s).tcnt = s.tcnt := rfl
@[simp] theorem setRdata_wrom (v : Word) (s : State) : (setRdata v s).wrom = s.wrom := rfl
@[simp] theorem setRdata_pos (v : Word) (s : State) : (setRdata v s).pos = s.pos := rfl
@[simp] theorem setRdata_ndisc (v : Word) (s : State) : (setRdata v s).ndisc = s.ndisc := rfl
@[simp] theorem setRdata_idb (v : Word) (s : State) : (setRdata v s).idb = s.idb := rfl
@[simp] theorem setRdata_cmpb (v : Word) (s : State) : (setRdata v s).cmpb = s.cmpb := rfl
@[simp] theorem setRdata_hold (v : Word) (s : State) : (setRdata v s).hold = s.hold := rfl
@[simp] theorem setRdata_inputs (v : Word) (s : State) : (setRdata v s).inputs = s.inputs := rfl
@[simp] theorem setRdata_line (v : Word) (s : State) : (setRdata v s).line = s.line := rfl
@[simp] theorem setRdata_draws (v : Word) (s : State) : (setRdata v s).draws = s.draws := rfl
@[simp] theorem setRdata_readDraws (v : Word) (s : State) : (setRdata v s).readDraws = s.readDraws := rfl
@[simp] theorem setRdata_trace (v : Word) (s : State) : (setRdata v s).trace = s.trace := rfl
@[simp] theorem setRdata_ticks (v : Word) (s : State) : (setRdata v s).ticks = s.ticks := rfl

/-! ### setFreeRdata (R76) -/

@[simp] theorem setFreeRdata_owOut (s : State) : (setFreeRdata s).owOut = s.owOut := rfl
@[simp] theorem setFreeRdata_crit (s : State) : (setFreeRdata s).crit = s.crit := rfl
@[simp] theorem setFreeRdata_busy (s : State) : (setFreeRdata s).busy = s.busy := rfl
@[simp] theorem setFreeRdata_hRdata (s : State) :
    (setFreeRdata s).hRdata = some (Config.freeRead s.readDraws) := rfl
@[simp] theorem setFreeRdata_spul (s : State) : (setFreeRdata s).spul = s.spul := rfl
@[simp] theorem setFreeRdata_presence (s : State) : (setFreeRdata s).presence = s.presence := rfl
@[simp] theorem setFreeRdata_found (s : State) : (setFreeRdata s).found = s.found := rfl
@[simp] theorem setFreeRdata_pmode (s : State) : (setFreeRdata s).pmode = s.pmode := rfl
@[simp] theorem setFreeRdata_tvalid (s : State) : (setFreeRdata s).tvalid = s.tvalid := rfl
@[simp] theorem setFreeRdata_cause (s : State) : (setFreeRdata s).cause = s.cause := rfl
@[simp] theorem setFreeRdata_info (s : State) : (setFreeRdata s).info = s.info := rfl
@[simp] theorem setFreeRdata_spuEn (s : State) : (setFreeRdata s).spuEn = s.spuEn := rfl
@[simp] theorem setFreeRdata_data (s : State) : (setFreeRdata s).data = s.data := rfl
@[simp] theorem setFreeRdata_buf (s : State) : (setFreeRdata s).buf = s.buf := rfl
@[simp] theorem setFreeRdata_rom (s : State) : (setFreeRdata s).rom = s.rom := rfl
@[simp] theorem setFreeRdata_srom (s : State) : (setFreeRdata s).srom = s.srom := rfl
@[simp] theorem setFreeRdata_ldisc (s : State) : (setFreeRdata s).ldisc = s.ldisc := rfl
@[simp] theorem setFreeRdata_crc (s : State) : (setFreeRdata s).crc = s.crc := rfl
@[simp] theorem setFreeRdata_tnum (s : State) : (setFreeRdata s).tnum = s.tnum := rfl
@[simp] theorem setFreeRdata_tden (s : State) : (setFreeRdata s).tden = s.tden := rfl
@[simp] theorem setFreeRdata_tc100 (s : State) : (setFreeRdata s).tc100 = s.tc100 := rfl
@[simp] theorem setFreeRdata_res (s : State) : (setFreeRdata s).res = s.res := rfl
@[simp] theorem setFreeRdata_opc (s : State) : (setFreeRdata s).opc = s.opc := rfl
@[simp] theorem setFreeRdata_arg (s : State) : (setFreeRdata s).arg = s.arg := rfl
@[simp] theorem setFreeRdata_stepIx (s : State) : (setFreeRdata s).stepIx = s.stepIx := rfl
@[simp] theorem setFreeRdata_byteIx (s : State) : (setFreeRdata s).byteIx = s.byteIx := rfl
@[simp] theorem setFreeRdata_bitIx (s : State) : (setFreeRdata s).bitIx = s.bitIx := rfl
@[simp] theorem setFreeRdata_shreg (s : State) : (setFreeRdata s).shreg = s.shreg := rfl
@[simp] theorem setFreeRdata_tcnt (s : State) : (setFreeRdata s).tcnt = s.tcnt := rfl
@[simp] theorem setFreeRdata_wrom (s : State) : (setFreeRdata s).wrom = s.wrom := rfl
@[simp] theorem setFreeRdata_pos (s : State) : (setFreeRdata s).pos = s.pos := rfl
@[simp] theorem setFreeRdata_ndisc (s : State) : (setFreeRdata s).ndisc = s.ndisc := rfl
@[simp] theorem setFreeRdata_idb (s : State) : (setFreeRdata s).idb = s.idb := rfl
@[simp] theorem setFreeRdata_cmpb (s : State) : (setFreeRdata s).cmpb = s.cmpb := rfl
@[simp] theorem setFreeRdata_hold (s : State) : (setFreeRdata s).hold = s.hold := rfl
@[simp] theorem setFreeRdata_inputs (s : State) : (setFreeRdata s).inputs = s.inputs := rfl
@[simp] theorem setFreeRdata_line (s : State) : (setFreeRdata s).line = s.line := rfl
@[simp] theorem setFreeRdata_draws (s : State) : (setFreeRdata s).draws = s.draws := rfl
@[simp] theorem setFreeRdata_readDraws (s : State) : (setFreeRdata s).readDraws = s.readDraws + 1 := rfl
@[simp] theorem setFreeRdata_trace (s : State) : (setFreeRdata s).trace = s.trace := rfl
@[simp] theorem setFreeRdata_ticks (s : State) : (setFreeRdata s).ticks = s.ticks := rfl

/-! ### takeInput (R51) -/

@[simp] theorem takeInput_owOut (rest : List Input) (s : State) : (takeInput rest s).owOut = s.owOut := rfl
@[simp] theorem takeInput_crit (rest : List Input) (s : State) : (takeInput rest s).crit = s.crit := rfl
@[simp] theorem takeInput_busy (rest : List Input) (s : State) : (takeInput rest s).busy = s.busy := rfl
@[simp] theorem takeInput_hRdata (rest : List Input) (s : State) : (takeInput rest s).hRdata = none := rfl
@[simp] theorem takeInput_spul (rest : List Input) (s : State) : (takeInput rest s).spul = s.spul := rfl
@[simp] theorem takeInput_presence (rest : List Input) (s : State) :
    (takeInput rest s).presence = s.presence := rfl
@[simp] theorem takeInput_found (rest : List Input) (s : State) : (takeInput rest s).found = s.found := rfl
@[simp] theorem takeInput_pmode (rest : List Input) (s : State) : (takeInput rest s).pmode = s.pmode := rfl
@[simp] theorem takeInput_tvalid (rest : List Input) (s : State) :
    (takeInput rest s).tvalid = s.tvalid := rfl
@[simp] theorem takeInput_cause (rest : List Input) (s : State) : (takeInput rest s).cause = s.cause := rfl
@[simp] theorem takeInput_info (rest : List Input) (s : State) : (takeInput rest s).info = s.info := rfl
@[simp] theorem takeInput_spuEn (rest : List Input) (s : State) : (takeInput rest s).spuEn = s.spuEn := rfl
@[simp] theorem takeInput_data (rest : List Input) (s : State) : (takeInput rest s).data = s.data := rfl
@[simp] theorem takeInput_buf (rest : List Input) (s : State) : (takeInput rest s).buf = s.buf := rfl
@[simp] theorem takeInput_rom (rest : List Input) (s : State) : (takeInput rest s).rom = s.rom := rfl
@[simp] theorem takeInput_srom (rest : List Input) (s : State) : (takeInput rest s).srom = s.srom := rfl
@[simp] theorem takeInput_ldisc (rest : List Input) (s : State) : (takeInput rest s).ldisc = s.ldisc := rfl
@[simp] theorem takeInput_crc (rest : List Input) (s : State) : (takeInput rest s).crc = s.crc := rfl
@[simp] theorem takeInput_tnum (rest : List Input) (s : State) : (takeInput rest s).tnum = s.tnum := rfl
@[simp] theorem takeInput_tden (rest : List Input) (s : State) : (takeInput rest s).tden = s.tden := rfl
@[simp] theorem takeInput_tc100 (rest : List Input) (s : State) : (takeInput rest s).tc100 = s.tc100 := rfl
@[simp] theorem takeInput_res (rest : List Input) (s : State) : (takeInput rest s).res = s.res := rfl
@[simp] theorem takeInput_opc (rest : List Input) (s : State) : (takeInput rest s).opc = s.opc := rfl
@[simp] theorem takeInput_arg (rest : List Input) (s : State) : (takeInput rest s).arg = s.arg := rfl
@[simp] theorem takeInput_stepIx (rest : List Input) (s : State) :
    (takeInput rest s).stepIx = s.stepIx := rfl
@[simp] theorem takeInput_byteIx (rest : List Input) (s : State) :
    (takeInput rest s).byteIx = s.byteIx := rfl
@[simp] theorem takeInput_bitIx (rest : List Input) (s : State) : (takeInput rest s).bitIx = s.bitIx := rfl
@[simp] theorem takeInput_shreg (rest : List Input) (s : State) : (takeInput rest s).shreg = s.shreg := rfl
@[simp] theorem takeInput_tcnt (rest : List Input) (s : State) : (takeInput rest s).tcnt = s.tcnt := rfl
@[simp] theorem takeInput_wrom (rest : List Input) (s : State) : (takeInput rest s).wrom = s.wrom := rfl
@[simp] theorem takeInput_pos (rest : List Input) (s : State) : (takeInput rest s).pos = s.pos := rfl
@[simp] theorem takeInput_ndisc (rest : List Input) (s : State) : (takeInput rest s).ndisc = s.ndisc := rfl
@[simp] theorem takeInput_idb (rest : List Input) (s : State) : (takeInput rest s).idb = s.idb := rfl
@[simp] theorem takeInput_cmpb (rest : List Input) (s : State) : (takeInput rest s).cmpb = s.cmpb := rfl
@[simp] theorem takeInput_hold (rest : List Input) (s : State) : (takeInput rest s).hold = s.hold := rfl
@[simp] theorem takeInput_inputs (rest : List Input) (s : State) : (takeInput rest s).inputs = rest := rfl
@[simp] theorem takeInput_line (rest : List Input) (s : State) : (takeInput rest s).line = s.line := rfl
@[simp] theorem takeInput_draws (rest : List Input) (s : State) : (takeInput rest s).draws = s.draws := rfl
@[simp] theorem takeInput_readDraws (rest : List Input) (s : State) :
    (takeInput rest s).readDraws = s.readDraws := rfl
@[simp] theorem takeInput_trace (rest : List Input) (s : State) : (takeInput rest s).trace = s.trace := rfl
@[simp] theorem takeInput_ticks (rest : List Input) (s : State) : (takeInput rest s).ticks = s.ticks := rfl

end Sys2Proof.Machine
end

