-- ==== Sys2Proof/Laws/State.lean ====
section
/-! SUPPORT. One lemma per field of State for each shared update of Machine/Ops.lean, and the values of
the parameters (00_scope.md R8). -/

namespace Sys2Proof.Machine

/-! ### The parameters -/

@[simp] theorem config_tRstl : config.tRstl = 480 := rfl
@[simp] theorem config_tPds : config.tPds = 60 := rfl
@[simp] theorem config_tRstRest : config.tRstRest = 420 := rfl
@[simp] theorem config_tRdLow : config.tRdLow = 2 := rfl
@[simp] theorem config_tRdSample : config.tRdSample = 8 := rfl
@[simp] theorem config_tRdRec : config.tRdRec = 40 := rfl
@[simp] theorem config_tWrLow : config.tWrLow = 2 := rfl
@[simp] theorem config_tWrSlot : config.tWrSlot = 60 := rfl
@[simp] theorem config_tWrRec : config.tWrRec = 2 := rfl
@[simp] theorem config_tSpuOff : config.tSpuOff = 1 := rfl
@[simp] theorem config_cmdSearchRom : config.cmdSearchRom = 0xF0 := rfl
@[simp] theorem config_cmdMatchRom : config.cmdMatchRom = 0x55 := rfl
@[simp] theorem config_cmdSkipRom : config.cmdSkipRom = 0xCC := rfl
@[simp] theorem config_cmdConvertT : config.cmdConvertT = 0x44 := rfl
@[simp] theorem config_cmdReadScratch : config.cmdReadScratch = 0xBE := rfl
@[simp] theorem config_cmdWriteScratch : config.cmdWriteScratch = 0x4E := rfl
@[simp] theorem config_cmdReadPower : config.cmdReadPower = 0xB4 := rfl
@[simp] theorem config_ldiscInit : config.ldiscInit = 65 := rfl
@[simp] theorem config_crcPoly : config.crcPoly = 0x8C := rfl
@[simp] theorem config_crcInit : config.crcInit = 0x00 := rfl
@[simp] theorem resetLength_eq : resetLength = 960 := rfl
@[simp] theorem readLength_eq : readLength = 48 := rfl
@[simp] theorem writeLength_eq : writeLength = 64 := rfl

/-! ### accept (R281) -/

@[simp] theorem accept_owOut (w : Word) (s : State) : (accept w s).owOut = s.owOut := rfl
@[simp] theorem accept_crit (w : Word) (s : State) : (accept w s).crit = s.crit := rfl
@[simp] theorem accept_busy (w : Word) (s : State) : (accept w s).busy = true := rfl
@[simp] theorem accept_hRdata (w : Word) (s : State) : (accept w s).hRdata = s.hRdata := rfl
@[simp] theorem accept_spul (w : Word) (s : State) : (accept w s).spul = s.spul := rfl
@[simp] theorem accept_presence (w : Word) (s : State) : (accept w s).presence = s.presence := rfl
@[simp] theorem accept_found (w : Word) (s : State) : (accept w s).found = s.found := rfl
@[simp] theorem accept_pmode (w : Word) (s : State) : (accept w s).pmode = s.pmode := rfl
@[simp] theorem accept_tvalid (w : Word) (s : State) : (accept w s).tvalid = s.tvalid := rfl
@[simp] theorem accept_cause (w : Word) (s : State) : (accept w s).cause = s.cause := rfl
@[simp] theorem accept_info (w : Word) (s : State) : (accept w s).info = s.info := rfl
@[simp] theorem accept_spuEn (w : Word) (s : State) : (accept w s).spuEn = s.spuEn := rfl
@[simp] theorem accept_data (w : Word) (s : State) : (accept w s).data = s.data := rfl
@[simp] theorem accept_buf (w : Word) (s : State) : (accept w s).buf = s.buf := rfl
@[simp] theorem accept_rom (w : Word) (s : State) : (accept w s).rom = s.rom := rfl
@[simp] theorem accept_srom (w : Word) (s : State) : (accept w s).srom = s.srom := rfl
@[simp] theorem accept_ldisc (w : Word) (s : State) : (accept w s).ldisc = s.ldisc := rfl
@[simp] theorem accept_crc (w : Word) (s : State) : (accept w s).crc = s.crc := rfl
@[simp] theorem accept_tnum (w : Word) (s : State) : (accept w s).tnum = s.tnum := rfl
@[simp] theorem accept_tden (w : Word) (s : State) : (accept w s).tden = s.tden := rfl
@[simp] theorem accept_tc100 (w : Word) (s : State) : (accept w s).tc100 = s.tc100 := rfl
@[simp] theorem accept_res (w : Word) (s : State) : (accept w s).res = s.res := rfl
@[simp] theorem accept_opc (w : Word) (s : State) : (accept w s).opc = w.extractLsb' 0 8 := rfl
@[simp] theorem accept_arg (w : Word) (s : State) : (accept w s).arg = w.extractLsb' 8 8 := rfl
@[simp] theorem accept_stepIx (w : Word) (s : State) : (accept w s).stepIx = s.stepIx := rfl
@[simp] theorem accept_byteIx (w : Word) (s : State) : (accept w s).byteIx = s.byteIx := rfl
@[simp] theorem accept_bitIx (w : Word) (s : State) : (accept w s).bitIx = s.bitIx := rfl
@[simp] theorem accept_shreg (w : Word) (s : State) : (accept w s).shreg = s.shreg := rfl
@[simp] theorem accept_tcnt (w : Word) (s : State) : (accept w s).tcnt = s.tcnt := rfl
@[simp] theorem accept_wrom (w : Word) (s : State) : (accept w s).wrom = s.wrom := rfl
@[simp] theorem accept_pos (w : Word) (s : State) : (accept w s).pos = s.pos := rfl
@[simp] theorem accept_ndisc (w : Word) (s : State) : (accept w s).ndisc = s.ndisc := rfl
@[simp] theorem accept_idb (w : Word) (s : State) : (accept w s).idb = s.idb := rfl
@[simp] theorem accept_cmpb (w : Word) (s : State) : (accept w s).cmpb = s.cmpb := rfl
@[simp] theorem accept_hold (w : Word) (s : State) : (accept w s).hold = s.hold := rfl
@[simp] theorem accept_inputs (w : Word) (s : State) : (accept w s).inputs = s.inputs := rfl
@[simp] theorem accept_line (w : Word) (s : State) : (accept w s).line = s.line := rfl
@[simp] theorem accept_draws (w : Word) (s : State) : (accept w s).draws = s.draws := rfl
@[simp] theorem accept_readDraws (w : Word) (s : State) : (accept w s).readDraws = s.readDraws := rfl
@[simp] theorem accept_trace (w : Word) (s : State) : (accept w s).trace = s.trace := rfl
@[simp] theorem accept_ticks (w : Word) (s : State) : (accept w s).ticks = s.ticks := rfl

/-! ### idle (R282) -/

@[simp] theorem idle_owOut (s : State) : (idle s).owOut = s.owOut := rfl
@[simp] theorem idle_crit (s : State) : (idle s).crit = s.crit := rfl
@[simp] theorem idle_busy (s : State) : (idle s).busy = false := rfl
@[simp] theorem idle_hRdata (s : State) : (idle s).hRdata = s.hRdata := rfl
@[simp] theorem idle_spul (s : State) : (idle s).spul = s.spul := rfl
@[simp] theorem idle_presence (s : State) : (idle s).presence = s.presence := rfl
@[simp] theorem idle_found (s : State) : (idle s).found = s.found := rfl
@[simp] theorem idle_pmode (s : State) : (idle s).pmode = s.pmode := rfl
@[simp] theorem idle_tvalid (s : State) : (idle s).tvalid = s.tvalid := rfl
@[simp] theorem idle_cause (s : State) : (idle s).cause = s.cause := rfl
@[simp] theorem idle_info (s : State) : (idle s).info = s.info := rfl
@[simp] theorem idle_spuEn (s : State) : (idle s).spuEn = s.spuEn := rfl
@[simp] theorem idle_data (s : State) : (idle s).data = s.data := rfl
@[simp] theorem idle_buf (s : State) : (idle s).buf = s.buf := rfl
@[simp] theorem idle_rom (s : State) : (idle s).rom = s.rom := rfl
@[simp] theorem idle_srom (s : State) : (idle s).srom = s.srom := rfl
@[simp] theorem idle_ldisc (s : State) : (idle s).ldisc = s.ldisc := rfl
@[simp] theorem idle_crc (s : State) : (idle s).crc = s.crc := rfl
@[simp] theorem idle_tnum (s : State) : (idle s).tnum = s.tnum := rfl
@[simp] theorem idle_tden (s : State) : (idle s).tden = s.tden := rfl
@[simp] theorem idle_tc100 (s : State) : (idle s).tc100 = s.tc100 := rfl
@[simp] theorem idle_res (s : State) : (idle s).res = s.res := rfl
@[simp] theorem idle_opc (s : State) : (idle s).opc = 0 := rfl
@[simp] theorem idle_arg (s : State) : (idle s).arg = 0 := rfl
@[simp] theorem idle_stepIx (s : State) : (idle s).stepIx = 0 := rfl
@[simp] theorem idle_byteIx (s : State) : (idle s).byteIx = 0 := rfl
@[simp] theorem idle_bitIx (s : State) : (idle s).bitIx = 0 := rfl
@[simp] theorem idle_shreg (s : State) : (idle s).shreg = 0 := rfl
@[simp] theorem idle_tcnt (s : State) : (idle s).tcnt = 0 := rfl
@[simp] theorem idle_wrom (s : State) : (idle s).wrom = s.wrom := rfl
@[simp] theorem idle_pos (s : State) : (idle s).pos = s.pos := rfl
@[simp] theorem idle_ndisc (s : State) : (idle s).ndisc = s.ndisc := rfl
@[simp] theorem idle_idb (s : State) : (idle s).idb = s.idb := rfl
@[simp] theorem idle_cmpb (s : State) : (idle s).cmpb = s.cmpb := rfl
@[simp] theorem idle_hold (s : State) : (idle s).hold = none := rfl
@[simp] theorem idle_inputs (s : State) : (idle s).inputs = s.inputs := rfl
@[simp] theorem idle_line (s : State) : (idle s).line = s.line := rfl
@[simp] theorem idle_draws (s : State) : (idle s).draws = s.draws := rfl
@[simp] theorem idle_readDraws (s : State) : (idle s).readDraws = s.readDraws := rfl
@[simp] theorem idle_trace (s : State) : (idle s).trace = s.trace := rfl
@[simp] theorem idle_ticks (s : State) : (idle s).ticks = s.ticks := rfl

/-! ### endCommand (R282) -/

@[simp] theorem endCommand_owOut (c : Cause) (i : Pos) (s : State) : (endCommand c i s).owOut = s.owOut := rfl
@[simp] theorem endCommand_crit (c : Cause) (i : Pos) (s : State) : (endCommand c i s).crit = s.crit := rfl
@[simp] theorem endCommand_busy (c : Cause) (i : Pos) (s : State) : (endCommand c i s).busy = false := rfl
@[simp] theorem endCommand_hRdata (c : Cause) (i : Pos) (s : State) : (endCommand c i s).hRdata = s.hRdata := rfl
@[simp] theorem endCommand_spul (c : Cause) (i : Pos) (s : State) : (endCommand c i s).spul = s.spul := rfl
@[simp] theorem endCommand_presence (c : Cause) (i : Pos) (s : State) : (endCommand c i s).presence = s.presence := rfl
@[simp] theorem endCommand_found (c : Cause) (i : Pos) (s : State) : (endCommand c i s).found = s.found := rfl
@[simp] theorem endCommand_pmode (c : Cause) (i : Pos) (s : State) : (endCommand c i s).pmode = s.pmode := rfl
@[simp] theorem endCommand_tvalid (c : Cause) (i : Pos) (s : State) : (endCommand c i s).tvalid = s.tvalid := rfl
@[simp] theorem endCommand_cause (c : Cause) (i : Pos) (s : State) : (endCommand c i s).cause = c := rfl
@[simp] theorem endCommand_info (c : Cause) (i : Pos) (s : State) : (endCommand c i s).info = i := rfl
@[simp] theorem endCommand_spuEn (c : Cause) (i : Pos) (s : State) : (endCommand c i s).spuEn = s.spuEn := rfl
@[simp] theorem endCommand_data (c : Cause) (i : Pos) (s : State) : (endCommand c i s).data = s.data := rfl
@[simp] theorem endCommand_buf (c : Cause) (i : Pos) (s : State) : (endCommand c i s).buf = s.buf := rfl
@[simp] theorem endCommand_rom (c : Cause) (i : Pos) (s : State) : (endCommand c i s).rom = s.rom := rfl
@[simp] theorem endCommand_srom (c : Cause) (i : Pos) (s : State) : (endCommand c i s).srom = s.srom := rfl
@[simp] theorem endCommand_ldisc (c : Cause) (i : Pos) (s : State) : (endCommand c i s).ldisc = s.ldisc := rfl
@[simp] theorem endCommand_crc (c : Cause) (i : Pos) (s : State) : (endCommand c i s).crc = s.crc := rfl
@[simp] theorem endCommand_tnum (c : Cause) (i : Pos) (s : State) : (endCommand c i s).tnum = s.tnum := rfl
@[simp] theorem endCommand_tden (c : Cause) (i : Pos) (s : State) : (endCommand c i s).tden = s.tden := rfl
@[simp] theorem endCommand_tc100 (c : Cause) (i : Pos) (s : State) : (endCommand c i s).tc100 = s.tc100 := rfl
@[simp] theorem endCommand_res (c : Cause) (i : Pos) (s : State) : (endCommand c i s).res = s.res := rfl
@[simp] theorem endCommand_opc (c : Cause) (i : Pos) (s : State) : (endCommand c i s).opc = 0 := rfl
@[simp] theorem endCommand_arg (c : Cause) (i : Pos) (s : State) : (endCommand c i s).arg = 0 := rfl
@[simp] theorem endCommand_stepIx (c : Cause) (i : Pos) (s : State) : (endCommand c i s).stepIx = 0 := rfl
@[simp] theorem endCommand_byteIx (c : Cause) (i : Pos) (s : State) : (endCommand c i s).byteIx = 0 := rfl
@[simp] theorem endCommand_bitIx (c : Cause) (i : Pos) (s : State) : (endCommand c i s).bitIx = 0 := rfl
@[simp] theorem endCommand_shreg (c : Cause) (i : Pos) (s : State) : (endCommand c i s).shreg = 0 := rfl
@[simp] theorem endCommand_tcnt (c : Cause) (i : Pos) (s : State) : (endCommand c i s).tcnt = 0 := rfl
@[simp] theorem endCommand_wrom (c : Cause) (i : Pos) (s : State) : (endCommand c i s).wrom = s.wrom := rfl
@[simp] theorem endCommand_pos (c : Cause) (i : Pos) (s : State) : (endCommand c i s).pos = s.pos := rfl
@[simp] theorem endCommand_ndisc (c : Cause) (i : Pos) (s : State) : (endCommand c i s).ndisc = s.ndisc := rfl
@[simp] theorem endCommand_idb (c : Cause) (i : Pos) (s : State) : (endCommand c i s).idb = s.idb := rfl
@[simp] theorem endCommand_cmpb (c : Cause) (i : Pos) (s : State) : (endCommand c i s).cmpb = s.cmpb := rfl
@[simp] theorem endCommand_hold (c : Cause) (i : Pos) (s : State) : (endCommand c i s).hold = none := rfl
@[simp] theorem endCommand_inputs (c : Cause) (i : Pos) (s : State) : (endCommand c i s).inputs = s.inputs := rfl
@[simp] theorem endCommand_line (c : Cause) (i : Pos) (s : State) : (endCommand c i s).line = s.line := rfl
@[simp] theorem endCommand_draws (c : Cause) (i : Pos) (s : State) : (endCommand c i s).draws = s.draws := rfl
@[simp] theorem endCommand_readDraws (c : Cause) (i : Pos) (s : State) :
    (endCommand c i s).readDraws = s.readDraws := rfl
@[simp] theorem endCommand_trace (c : Cause) (i : Pos) (s : State) : (endCommand c i s).trace = s.trace := rfl
@[simp] theorem endCommand_ticks (c : Cause) (i : Pos) (s : State) : (endCommand c i s).ticks = s.ticks := rfl

/-! ### finish (R282, R290) -/

@[simp] theorem finish_owOut (s : State) : (finish s).owOut = s.owOut := rfl
@[simp] theorem finish_crit (s : State) : (finish s).crit = s.crit := rfl
@[simp] theorem finish_busy (s : State) : (finish s).busy = false := rfl
@[simp] theorem finish_hRdata (s : State) : (finish s).hRdata = s.hRdata := rfl
@[simp] theorem finish_spul (s : State) : (finish s).spul = s.spul := rfl
@[simp] theorem finish_presence (s : State) : (finish s).presence = s.presence := rfl
@[simp] theorem finish_found (s : State) : (finish s).found = s.found := rfl
@[simp] theorem finish_pmode (s : State) : (finish s).pmode = s.pmode := rfl
@[simp] theorem finish_tvalid (s : State) : (finish s).tvalid = s.tvalid := rfl
@[simp] theorem finish_cause (s : State) : (finish s).cause = .ok := rfl
@[simp] theorem finish_info (s : State) : (finish s).info = 0 := rfl
@[simp] theorem finish_spuEn (s : State) : (finish s).spuEn = s.spuEn := rfl
@[simp] theorem finish_data (s : State) : (finish s).data = s.data := rfl
@[simp] theorem finish_buf (s : State) : (finish s).buf = s.buf := rfl
@[simp] theorem finish_rom (s : State) : (finish s).rom = s.rom := rfl
@[simp] theorem finish_srom (s : State) : (finish s).srom = s.srom := rfl
@[simp] theorem finish_ldisc (s : State) : (finish s).ldisc = s.ldisc := rfl
@[simp] theorem finish_crc (s : State) : (finish s).crc = s.crc := rfl
@[simp] theorem finish_tnum (s : State) : (finish s).tnum = s.tnum := rfl
@[simp] theorem finish_tden (s : State) : (finish s).tden = s.tden := rfl
@[simp] theorem finish_tc100 (s : State) : (finish s).tc100 = s.tc100 := rfl
@[simp] theorem finish_res (s : State) : (finish s).res = s.res := rfl
@[simp] theorem finish_opc (s : State) : (finish s).opc = 0 := rfl
@[simp] theorem finish_arg (s : State) : (finish s).arg = 0 := rfl
@[simp] theorem finish_stepIx (s : State) : (finish s).stepIx = 0 := rfl
@[simp] theorem finish_byteIx (s : State) : (finish s).byteIx = 0 := rfl
@[simp] theorem finish_bitIx (s : State) : (finish s).bitIx = 0 := rfl
@[simp] theorem finish_shreg (s : State) : (finish s).shreg = 0 := rfl
@[simp] theorem finish_tcnt (s : State) : (finish s).tcnt = 0 := rfl
@[simp] theorem finish_wrom (s : State) : (finish s).wrom = s.wrom := rfl
@[simp] theorem finish_pos (s : State) : (finish s).pos = s.pos := rfl
@[simp] theorem finish_ndisc (s : State) : (finish s).ndisc = s.ndisc := rfl
@[simp] theorem finish_idb (s : State) : (finish s).idb = s.idb := rfl
@[simp] theorem finish_cmpb (s : State) : (finish s).cmpb = s.cmpb := rfl
@[simp] theorem finish_hold (s : State) : (finish s).hold = none := rfl
@[simp] theorem finish_inputs (s : State) : (finish s).inputs = s.inputs := rfl
@[simp] theorem finish_line (s : State) : (finish s).line = s.line := rfl
@[simp] theorem finish_draws (s : State) : (finish s).draws = s.draws := rfl
@[simp] theorem finish_readDraws (s : State) : (finish s).readDraws = s.readDraws := rfl
@[simp] theorem finish_trace (s : State) : (finish s).trace = s.trace := rfl
@[simp] theorem finish_ticks (s : State) : (finish s).ticks = s.ticks := rfl

/-! ### raise (R300) -/

@[simp] theorem raise_owOut (c : Cause) (i : Pos) (s : State) : (raise c i s).owOut = s.owOut := rfl
@[simp] theorem raise_crit (c : Cause) (i : Pos) (s : State) : (raise c i s).crit = s.crit := rfl
@[simp] theorem raise_busy (c : Cause) (i : Pos) (s : State) : (raise c i s).busy = false := rfl
@[simp] theorem raise_hRdata (c : Cause) (i : Pos) (s : State) : (raise c i s).hRdata = s.hRdata := rfl
@[simp] theorem raise_spul (c : Cause) (i : Pos) (s : State) : (raise c i s).spul = s.spul := rfl
@[simp] theorem raise_presence (c : Cause) (i : Pos) (s : State) : (raise c i s).presence = s.presence := rfl
@[simp] theorem raise_found (c : Cause) (i : Pos) (s : State) : (raise c i s).found = s.found := rfl
@[simp] theorem raise_pmode (c : Cause) (i : Pos) (s : State) : (raise c i s).pmode = s.pmode := rfl
@[simp] theorem raise_tvalid (c : Cause) (i : Pos) (s : State) : (raise c i s).tvalid = s.tvalid := rfl
@[simp] theorem raise_cause (c : Cause) (i : Pos) (s : State) : (raise c i s).cause = c := rfl
@[simp] theorem raise_info (c : Cause) (i : Pos) (s : State) : (raise c i s).info = i := rfl
@[simp] theorem raise_spuEn (c : Cause) (i : Pos) (s : State) : (raise c i s).spuEn = s.spuEn := rfl
@[simp] theorem raise_data (c : Cause) (i : Pos) (s : State) : (raise c i s).data = s.data := rfl
@[simp] theorem raise_buf (c : Cause) (i : Pos) (s : State) : (raise c i s).buf = s.buf := rfl
@[simp] theorem raise_rom (c : Cause) (i : Pos) (s : State) : (raise c i s).rom = s.rom := rfl
@[simp] theorem raise_srom (c : Cause) (i : Pos) (s : State) : (raise c i s).srom = s.srom := rfl
@[simp] theorem raise_ldisc (c : Cause) (i : Pos) (s : State) : (raise c i s).ldisc = s.ldisc := rfl
@[simp] theorem raise_crc (c : Cause) (i : Pos) (s : State) : (raise c i s).crc = s.crc := rfl
@[simp] theorem raise_tnum (c : Cause) (i : Pos) (s : State) : (raise c i s).tnum = s.tnum := rfl
@[simp] theorem raise_tden (c : Cause) (i : Pos) (s : State) : (raise c i s).tden = s.tden := rfl
@[simp] theorem raise_tc100 (c : Cause) (i : Pos) (s : State) : (raise c i s).tc100 = s.tc100 := rfl
@[simp] theorem raise_res (c : Cause) (i : Pos) (s : State) : (raise c i s).res = s.res := rfl
@[simp] theorem raise_opc (c : Cause) (i : Pos) (s : State) : (raise c i s).opc = 0 := rfl
@[simp] theorem raise_arg (c : Cause) (i : Pos) (s : State) : (raise c i s).arg = 0 := rfl
@[simp] theorem raise_stepIx (c : Cause) (i : Pos) (s : State) : (raise c i s).stepIx = 0 := rfl
@[simp] theorem raise_byteIx (c : Cause) (i : Pos) (s : State) : (raise c i s).byteIx = 0 := rfl
@[simp] theorem raise_bitIx (c : Cause) (i : Pos) (s : State) : (raise c i s).bitIx = 0 := rfl
@[simp] theorem raise_shreg (c : Cause) (i : Pos) (s : State) : (raise c i s).shreg = 0 := rfl
@[simp] theorem raise_tcnt (c : Cause) (i : Pos) (s : State) : (raise c i s).tcnt = 0 := rfl
@[simp] theorem raise_wrom (c : Cause) (i : Pos) (s : State) : (raise c i s).wrom = s.wrom := rfl
@[simp] theorem raise_pos (c : Cause) (i : Pos) (s : State) : (raise c i s).pos = s.pos := rfl
@[simp] theorem raise_ndisc (c : Cause) (i : Pos) (s : State) : (raise c i s).ndisc = s.ndisc := rfl
@[simp] theorem raise_idb (c : Cause) (i : Pos) (s : State) : (raise c i s).idb = s.idb := rfl
@[simp] theorem raise_cmpb (c : Cause) (i : Pos) (s : State) : (raise c i s).cmpb = s.cmpb := rfl
@[simp] theorem raise_hold (c : Cause) (i : Pos) (s : State) : (raise c i s).hold = none := rfl
@[simp] theorem raise_inputs (c : Cause) (i : Pos) (s : State) : (raise c i s).inputs = s.inputs := rfl
@[simp] theorem raise_line (c : Cause) (i : Pos) (s : State) : (raise c i s).line = s.line := rfl
@[simp] theorem raise_draws (c : Cause) (i : Pos) (s : State) : (raise c i s).draws = s.draws := rfl
@[simp] theorem raise_readDraws (c : Cause) (i : Pos) (s : State) :
    (raise c i s).readDraws = s.readDraws := rfl
@[simp] theorem raise_trace (c : Cause) (i : Pos) (s : State) : (raise c i s).trace = s.trace := rfl
@[simp] theorem raise_ticks (c : Cause) (i : Pos) (s : State) : (raise c i s).ticks = s.ticks := rfl

/-! ### prologue (R141) -/

@[simp] theorem prologue_owOut (s : State) : (prologue s).owOut = s.owOut := rfl
@[simp] theorem prologue_crit (s : State) : (prologue s).crit = s.crit := rfl
@[simp] theorem prologue_busy (s : State) : (prologue s).busy = s.busy := rfl
@[simp] theorem prologue_hRdata (s : State) : (prologue s).hRdata = s.hRdata := rfl
@[simp] theorem prologue_spul (s : State) : (prologue s).spul = false := rfl
@[simp] theorem prologue_presence (s : State) : (prologue s).presence = s.presence := rfl
@[simp] theorem prologue_found (s : State) : (prologue s).found = s.found := rfl
@[simp] theorem prologue_pmode (s : State) : (prologue s).pmode = s.pmode := rfl
@[simp] theorem prologue_tvalid (s : State) : (prologue s).tvalid = s.tvalid := rfl
@[simp] theorem prologue_cause (s : State) : (prologue s).cause = s.cause := rfl
@[simp] theorem prologue_info (s : State) : (prologue s).info = s.info := rfl
@[simp] theorem prologue_spuEn (s : State) : (prologue s).spuEn = s.spuEn := rfl
@[simp] theorem prologue_data (s : State) : (prologue s).data = s.data := rfl
@[simp] theorem prologue_buf (s : State) : (prologue s).buf = s.buf := rfl
@[simp] theorem prologue_rom (s : State) : (prologue s).rom = s.rom := rfl
@[simp] theorem prologue_srom (s : State) : (prologue s).srom = s.srom := rfl
@[simp] theorem prologue_ldisc (s : State) : (prologue s).ldisc = s.ldisc := rfl
@[simp] theorem prologue_crc (s : State) : (prologue s).crc = s.crc := rfl
@[simp] theorem prologue_tnum (s : State) : (prologue s).tnum = s.tnum := rfl
@[simp] theorem prologue_tden (s : State) : (prologue s).tden = s.tden := rfl
@[simp] theorem prologue_tc100 (s : State) : (prologue s).tc100 = s.tc100 := rfl
@[simp] theorem prologue_res (s : State) : (prologue s).res = s.res := rfl
@[simp] theorem prologue_opc (s : State) : (prologue s).opc = s.opc := rfl
@[simp] theorem prologue_arg (s : State) : (prologue s).arg = s.arg := rfl
@[simp] theorem prologue_stepIx (s : State) : (prologue s).stepIx = s.stepIx := rfl
@[simp] theorem prologue_byteIx (s : State) : (prologue s).byteIx = s.byteIx := rfl
@[simp] theorem prologue_bitIx (s : State) : (prologue s).bitIx = s.bitIx := rfl
@[simp] theorem prologue_shreg (s : State) : (prologue s).shreg = s.shreg := rfl
@[simp] theorem prologue_tcnt (s : State) : (prologue s).tcnt = s.tcnt := rfl
@[simp] theorem prologue_wrom (s : State) : (prologue s).wrom = s.wrom := rfl
@[simp] theorem prologue_pos (s : State) : (prologue s).pos = s.pos := rfl
@[simp] theorem prologue_ndisc (s : State) : (prologue s).ndisc = s.ndisc := rfl
@[simp] theorem prologue_idb (s : State) : (prologue s).idb = s.idb := rfl
@[simp] theorem prologue_cmpb (s : State) : (prologue s).cmpb = s.cmpb := rfl
@[simp] theorem prologue_hold (s : State) : (prologue s).hold = s.hold := rfl
@[simp] theorem prologue_inputs (s : State) : (prologue s).inputs = s.inputs := rfl
@[simp] theorem prologue_line (s : State) : (prologue s).line = s.line := rfl
@[simp] theorem prologue_draws (s : State) : (prologue s).draws = s.draws := rfl
@[simp] theorem prologue_readDraws (s : State) : (prologue s).readDraws = s.readDraws := rfl
@[simp] theorem prologue_trace (s : State) : (prologue s).trace = s.trace := rfl
@[simp] theorem prologue_ticks (s : State) : (prologue s).ticks = s.ticks + prologueLength s := rfl

/-! ### slotDone (R154) -/

@[simp] theorem slotDone_owOut (x : Slot) (n : Nat) (s : State) : (slotDone x n s).owOut = true := rfl
@[simp] theorem slotDone_crit (x : Slot) (n : Nat) (s : State) : (slotDone x n s).crit = false := rfl
@[simp] theorem slotDone_busy (x : Slot) (n : Nat) (s : State) : (slotDone x n s).busy = s.busy := rfl
@[simp] theorem slotDone_hRdata (x : Slot) (n : Nat) (s : State) : (slotDone x n s).hRdata = s.hRdata := rfl
@[simp] theorem slotDone_spul (x : Slot) (n : Nat) (s : State) : (slotDone x n s).spul = s.spul := rfl
@[simp] theorem slotDone_presence (x : Slot) (n : Nat) (s : State) : (slotDone x n s).presence = s.presence := rfl
@[simp] theorem slotDone_found (x : Slot) (n : Nat) (s : State) : (slotDone x n s).found = s.found := rfl
@[simp] theorem slotDone_pmode (x : Slot) (n : Nat) (s : State) : (slotDone x n s).pmode = s.pmode := rfl
@[simp] theorem slotDone_tvalid (x : Slot) (n : Nat) (s : State) : (slotDone x n s).tvalid = s.tvalid := rfl
@[simp] theorem slotDone_cause (x : Slot) (n : Nat) (s : State) : (slotDone x n s).cause = s.cause := rfl
@[simp] theorem slotDone_info (x : Slot) (n : Nat) (s : State) : (slotDone x n s).info = s.info := rfl
@[simp] theorem slotDone_spuEn (x : Slot) (n : Nat) (s : State) : (slotDone x n s).spuEn = s.spuEn := rfl
@[simp] theorem slotDone_data (x : Slot) (n : Nat) (s : State) : (slotDone x n s).data = s.data := rfl
@[simp] theorem slotDone_buf (x : Slot) (n : Nat) (s : State) : (slotDone x n s).buf = s.buf := rfl
@[simp] theorem slotDone_rom (x : Slot) (n : Nat) (s : State) : (slotDone x n s).rom = s.rom := rfl
@[simp] theorem slotDone_srom (x : Slot) (n : Nat) (s : State) : (slotDone x n s).srom = s.srom := rfl
@[simp] theorem slotDone_ldisc (x : Slot) (n : Nat) (s : State) : (slotDone x n s).ldisc = s.ldisc := rfl
@[simp] theorem slotDone_crc (x : Slot) (n : Nat) (s : State) : (slotDone x n s).crc = s.crc := rfl
@[simp] theorem slotDone_tnum (x : Slot) (n : Nat) (s : State) : (slotDone x n s).tnum = s.tnum := rfl
@[simp] theorem slotDone_tden (x : Slot) (n : Nat) (s : State) : (slotDone x n s).tden = s.tden := rfl
@[simp] theorem slotDone_tc100 (x : Slot) (n : Nat) (s : State) : (slotDone x n s).tc100 = s.tc100 := rfl
@[simp] theorem slotDone_res (x : Slot) (n : Nat) (s : State) : (slotDone x n s).res = s.res := rfl
@[simp] theorem slotDone_opc (x : Slot) (n : Nat) (s : State) : (slotDone x n s).opc = s.opc := rfl
@[simp] theorem slotDone_arg (x : Slot) (n : Nat) (s : State) : (slotDone x n s).arg = s.arg := rfl
@[simp] theorem slotDone_stepIx (x : Slot) (n : Nat) (s : State) : (slotDone x n s).stepIx = s.stepIx := rfl
@[simp] theorem slotDone_byteIx (x : Slot) (n : Nat) (s : State) : (slotDone x n s).byteIx = s.byteIx := rfl
@[simp] theorem slotDone_bitIx (x : Slot) (n : Nat) (s : State) : (slotDone x n s).bitIx = s.bitIx := rfl
@[simp] theorem slotDone_shreg (x : Slot) (n : Nat) (s : State) : (slotDone x n s).shreg = s.shreg := rfl
@[simp] theorem slotDone_tcnt (x : Slot) (n : Nat) (s : State) : (slotDone x n s).tcnt = s.tcnt := rfl
@[simp] theorem slotDone_wrom (x : Slot) (n : Nat) (s : State) : (slotDone x n s).wrom = s.wrom := rfl
@[simp] theorem slotDone_pos (x : Slot) (n : Nat) (s : State) : (slotDone x n s).pos = s.pos := rfl
@[simp] theorem slotDone_ndisc (x : Slot) (n : Nat) (s : State) : (slotDone x n s).ndisc = s.ndisc := rfl
@[simp] theorem slotDone_idb (x : Slot) (n : Nat) (s : State) : (slotDone x n s).idb = s.idb := rfl
@[simp] theorem slotDone_cmpb (x : Slot) (n : Nat) (s : State) : (slotDone x n s).cmpb = s.cmpb := rfl
@[simp] theorem slotDone_hold (x : Slot) (n : Nat) (s : State) : (slotDone x n s).hold = s.hold := rfl
@[simp] theorem slotDone_inputs (x : Slot) (n : Nat) (s : State) : (slotDone x n s).inputs = s.inputs := rfl
@[simp] theorem slotDone_line (x : Slot) (n : Nat) (s : State) : (slotDone x n s).line = s.line := rfl
@[simp] theorem slotDone_draws (x : Slot) (n : Nat) (s : State) : (slotDone x n s).draws = s.draws := rfl
@[simp] theorem slotDone_readDraws (x : Slot) (n : Nat) (s : State) :
    (slotDone x n s).readDraws = s.readDraws := rfl
@[simp] theorem slotDone_trace (x : Slot) (n : Nat) (s : State) : (slotDone x n s).trace = s.trace ++ [x] := rfl
@[simp] theorem slotDone_ticks (x : Slot) (n : Nat) (s : State) : (slotDone x n s).ticks = s.ticks + n := rfl

/-! ### State.skipSamples (U19) -/

@[simp] theorem State.skipSamples_owOut (s : State) (n : Nat) : (s.skipSamples n).owOut = s.owOut := rfl
@[simp] theorem State.skipSamples_crit (s : State) (n : Nat) : (s.skipSamples n).crit = s.crit := rfl
@[simp] theorem State.skipSamples_busy (s : State) (n : Nat) : (s.skipSamples n).busy = s.busy := rfl
@[simp] theorem State.skipSamples_hRdata (s : State) (n : Nat) : (s.skipSamples n).hRdata = s.hRdata := rfl
@[simp] theorem State.skipSamples_spul (s : State) (n : Nat) : (s.skipSamples n).spul = s.spul := rfl
@[simp] theorem State.skipSamples_presence (s : State) (n : Nat) : (s.skipSamples n).presence = s.presence := rfl
@[simp] theorem State.skipSamples_found (s : State) (n : Nat) : (s.skipSamples n).found = s.found := rfl
@[simp] theorem State.skipSamples_pmode (s : State) (n : Nat) : (s.skipSamples n).pmode = s.pmode := rfl
@[simp] theorem State.skipSamples_tvalid (s : State) (n : Nat) : (s.skipSamples n).tvalid = s.tvalid := rfl
@[simp] theorem State.skipSamples_cause (s : State) (n : Nat) : (s.skipSamples n).cause = s.cause := rfl
@[simp] theorem State.skipSamples_info (s : State) (n : Nat) : (s.skipSamples n).info = s.info := rfl
@[simp] theorem State.skipSamples_spuEn (s : State) (n : Nat) : (s.skipSamples n).spuEn = s.spuEn := rfl
@[simp] theorem State.skipSamples_data (s : State) (n : Nat) : (s.skipSamples n).data = s.data := rfl
@[simp] theorem State.skipSamples_buf (s : State) (n : Nat) : (s.skipSamples n).buf = s.buf := rfl
@[simp] theorem State.skipSamples_rom (s : State) (n : Nat) : (s.skipSamples n).rom = s.rom := rfl
@[simp] theorem State.skipSamples_srom (s : State) (n : Nat) : (s.skipSamples n).srom = s.srom := rfl
@[simp] theorem State.skipSamples_ldisc (s : State) (n : Nat) : (s.skipSamples n).ldisc = s.ldisc := rfl
@[simp] theorem State.skipSamples_crc (s : State) (n : Nat) : (s.skipSamples n).crc = s.crc := rfl
@[simp] theorem State.skipSamples_tnum (s : State) (n : Nat) : (s.skipSamples n).tnum = s.tnum := rfl
@[simp] theorem State.skipSamples_tden (s : State) (n : Nat) : (s.skipSamples n).tden = s.tden := rfl
@[simp] theorem State.skipSamples_tc100 (s : State) (n : Nat) : (s.skipSamples n).tc100 = s.tc100 := rfl
@[simp] theorem State.skipSamples_res (s : State) (n : Nat) : (s.skipSamples n).res = s.res := rfl
@[simp] theorem State.skipSamples_opc (s : State) (n : Nat) : (s.skipSamples n).opc = s.opc := rfl
@[simp] theorem State.skipSamples_arg (s : State) (n : Nat) : (s.skipSamples n).arg = s.arg := rfl
@[simp] theorem State.skipSamples_stepIx (s : State) (n : Nat) : (s.skipSamples n).stepIx = s.stepIx := rfl
@[simp] theorem State.skipSamples_byteIx (s : State) (n : Nat) : (s.skipSamples n).byteIx = s.byteIx := rfl
@[simp] theorem State.skipSamples_bitIx (s : State) (n : Nat) : (s.skipSamples n).bitIx = s.bitIx := rfl
@[simp] theorem State.skipSamples_shreg (s : State) (n : Nat) : (s.skipSamples n).shreg = s.shreg := rfl
@[simp] theorem State.skipSamples_tcnt (s : State) (n : Nat) : (s.skipSamples n).tcnt = s.tcnt := rfl
@[simp] theorem State.skipSamples_wrom (s : State) (n : Nat) : (s.skipSamples n).wrom = s.wrom := rfl
@[simp] theorem State.skipSamples_pos (s : State) (n : Nat) : (s.skipSamples n).pos = s.pos := rfl
@[simp] theorem State.skipSamples_ndisc (s : State) (n : Nat) : (s.skipSamples n).ndisc = s.ndisc := rfl
@[simp] theorem State.skipSamples_idb (s : State) (n : Nat) : (s.skipSamples n).idb = s.idb := rfl
@[simp] theorem State.skipSamples_cmpb (s : State) (n : Nat) : (s.skipSamples n).cmpb = s.cmpb := rfl
@[simp] theorem State.skipSamples_hold (s : State) (n : Nat) : (s.skipSamples n).hold = s.hold := rfl
@[simp] theorem State.skipSamples_inputs (s : State) (n : Nat) : (s.skipSamples n).inputs = s.inputs := rfl
@[simp] theorem State.skipSamples_line (s : State) (n : Nat) : (s.skipSamples n).line = s.line.drop n := rfl
@[simp] theorem State.skipSamples_draws (s : State) (n : Nat) : (s.skipSamples n).draws = s.draws + (n - s.line.length) := rfl
@[simp] theorem State.skipSamples_readDraws (s : State) (n : Nat) :
    (s.skipSamples n).readDraws = s.readDraws := rfl
@[simp] theorem State.skipSamples_trace (s : State) (n : Nat) : (s.skipSamples n).trace = s.trace := rfl
@[simp] theorem State.skipSamples_ticks (s : State) (n : Nat) : (s.skipSamples n).ticks = s.ticks := rfl

end Sys2Proof.Machine
end

