-- ==== Sys2Proof/Laws/Ops.lean ====
section
/-! SUPPORT. One lemma per shared operation: all it does, as one update (`issued`). Provers cite these
instead of unfolding the loops over bits and bytes. -/

namespace Sys2Proof.Machine

/-! ### Samples -/

theorem sample_eq (s : State) : sample s = (s.sampleAt 0, s.skipSamples 1) := by
  cases h : s.line with
  | nil => simp [sample, State.sampleAt, State.skipSamples, h]
  | cons b rest => simp [sample, State.sampleAt, State.skipSamples, h]

@[simp] theorem skipSamples_zero (s : State) : s.skipSamples 0 = s := by
  simp [State.skipSamples]

/-- A later sample of a state that has skipped some. -/
@[simp] theorem sampleAt_skipSamples (s : State) (n k : Nat) :
    (s.skipSamples n).sampleAt k = s.sampleAt (n + k) := by
  simp only [State.sampleAt, State.skipSamples_line, State.skipSamples_draws, List.length_drop]
  by_cases h : k < s.line.length - n
  · have h' : n + k < s.line.length := by omega
    simp [h, h', List.getD_eq_getElem?_getD]
  · have h' : ¬ n + k < s.line.length := by omega
    rw [if_neg h, if_neg h']
    congr 1
    omega

theorem skipSamples_skipSamples (s : State) (n m : Nat) :
    (s.skipSamples n).skipSamples m = s.skipSamples (n + m) := by
  simp only [State.skipSamples, List.drop_drop, List.length_drop, State.mk.injEq, true_and, and_true]
  omega

/-! ### `issued`: what a run of slots does to the state -/

/-- Slots `xs` were issued, n samples were taken and `len` ticks passed: everything a run of slots does
but for the values it returns and PRESENCE. -/
def issued (xs : List Slot) (n len : Nat) (s : State) : State :=
  { s.skipSamples n with owOut := true, crit := false, trace := s.trace ++ xs, ticks := s.ticks + len }

@[simp] theorem sampleAt_issued (xs : List Slot) (n len k : Nat) (s : State) :
    (issued xs n len s).sampleAt k = s.sampleAt (n + k) := by
  have : (issued xs n len s).sampleAt k = (s.skipSamples n).sampleAt k := rfl
  rw [this, sampleAt_skipSamples]

/-- Two runs of slots one after the other are one run. -/
@[simp] theorem issued_issued (xs ys : List Slot) (n m k l : Nat) (s : State) :
    issued ys m l (issued xs n k s) = issued (xs ++ ys) (n + m) (k + l) s := by
  have h := skipSamples_skipSamples s n m
  simp only [State.skipSamples, State.mk.injEq, true_and, and_true] at h
  simp [issued, State.skipSamples, Nat.add_assoc] at h ⊢
  exact h

theorem resetSlot_eq (s : State) :
    resetSlot s = (!s.sampleAt 0,
      setPresence (!s.sampleAt 0) (issued [.reset (!s.sampleAt 0)] 1 resetLength s)) := by
  simp only [resetSlot, sample_eq]
  rfl

theorem readSlot_eq (s : State) :
    readSlot s = (s.sampleAt 0, issued [.read (s.sampleAt 0)] 1 readLength s) := by
  simp [readSlot, sample_eq, slotDone, issued]

theorem writeSlot_eq (b : Bool) (s : State) :
    writeSlot b s = issued [.write b] 0 writeLength s := by
  simp [writeSlot, slotDone, issued]

/-! ### Bytes to the wire -/

theorem writeBits_cons_eq (b : Bool) (bs : List Bool) (s : State) :
    writeBits (b :: bs) s =
      issued ((b :: bs).map Slot.write) 0 (writeLength * (b :: bs).length) s := by
  induction bs generalizing b s with
  | nil => simp [writeBits, writeSlot_eq]
  | cons c cs ih =>
    have h : writeBits (b :: c :: cs) s = writeBits (c :: cs) (writeSlot b s) := rfl
    rw [h, ih, writeSlot_eq, issued_issued]
    simp only [List.length_cons, List.map_cons, List.cons_append, List.nil_append, Nat.zero_add]
    congr 1
    simp only [writeLength_eq]
    omega

@[simp] theorem wireBits_length (v : Byte) : (wireBits v).length = 8 := by simp [wireBits]

theorem writeByteSeq_eq (v : Byte) (s : State) :
    writeByteSeq v s = issued (txSlots [v]) 0 512 s := by
  unfold writeByteSeq
  have hl := wireBits_length v
  cases h : wireBits v with
  | nil => simp [h] at hl
  | cons b bs =>
    rw [h] at hl
    rw [writeBits_cons_eq, hl]
    simp [txSlots, h]

@[simp] theorem txSlots_nil : txSlots [] = [] := rfl

theorem txSlots_append (vs ws : List Byte) : txSlots (vs ++ ws) = txSlots vs ++ txSlots ws := by
  simp [txSlots]

theorem txSlots_cons (v : Byte) (vs : List Byte) : txSlots (v :: vs) = txSlots [v] ++ txSlots vs :=
  txSlots_append [v] vs

theorem writeByteList_nil (s : State) : writeByteList [] s = s := rfl

theorem writeByteList_cons_eq (v : Byte) (vs : List Byte) (s : State) :
    writeByteList (v :: vs) s = issued (txSlots (v :: vs)) 0 (512 * (v :: vs).length) s := by
  induction vs generalizing v s with
  | nil => simp [writeByteList, writeByteSeq_eq]
  | cons w ws ih =>
    have h : writeByteList (v :: w :: ws) s = writeByteList (w :: ws) (writeByteSeq v s) := by
      simp only [writeByteList, List.foldl_cons]
    rw [h, ih, writeByteSeq_eq, issued_issued, ← txSlots_append]
    have e : 512 + 512 * (w :: ws).length = 512 * (v :: w :: ws).length := by
      simp only [List.length_cons]
      omega
    rw [e, List.cons_append, List.nil_append]

/-- A nonempty list of bytes sent. -/
theorem writeByteList_eq (vs : List Byte) (s : State) (h : vs ≠ []) :
    writeByteList vs s = issued (txSlots vs) 0 (512 * vs.length) s := by
  cases vs with
  | nil => exact absurd rfl h
  | cons v vs => exact writeByteList_cons_eq v vs s

@[simp] theorem romBytes_length (r : Rom) : (romBytes r).length = 8 := by simp [romBytes]

@[simp] theorem bufBytes_length (b : Buf) (k n : Nat) : (bufBytes b k n).length = n := by
  simp [bufBytes]

/-- `MatchRomSeq()` and `SkipRomSeq()` (R231, R232) as one: the bytes of the prefix. -/
theorem matchRomSeq_eq (s : State) :
    matchRomSeq s = issued (txSlots (addressBytes false s.rom)) 0 4608 s := by
  have h : romBytes s.rom ≠ [] := by
    intro h
    have := romBytes_length s.rom
    rw [h] at this
    simp at this
  rw [matchRomSeq, writeByteList_eq _ _ h, writeByteSeq_eq, issued_issued, ← txSlots_append]
  simp [addressBytes]

theorem skipRomSeq_eq (s : State) :
    skipRomSeq s = issued (txSlots (addressBytes true s.rom)) 0 512 s := by
  simp [skipRomSeq, writeByteSeq_eq, addressBytes]

/-- The length of the prefix after its reset slot. -/
def addressLength (bcast : Bool) : Nat := if bcast then 512 else 4608

/-- `Address(bcast)` (R235) followed by a rest: presence by the first sample, then the bytes of the
prefix; or BusAbsent after the reset slot. -/
theorem address_eq (bcast : Bool) (rest : State → State) (s : State) :
    address bcast rest s =
      if s.sampleAt 0 = false then
        rest (setPresence true (issued (.reset true :: txSlots (addressBytes bcast s.rom)) 1
          (960 + addressLength bcast) (prologue s)))
      else raise .busAbsent 0 (setPresence false (issued [.reset false] 1 960 (prologue s))) := by
  have hs : (prologue s).sampleAt 0 = s.sampleAt 0 := rfl
  simp only [address, resetSlot_eq, hs]
  cases h : s.sampleAt 0 with
  | true => rfl
  | false =>
    have e (b : Bool) := issued_issued [.reset true] (txSlots (addressBytes b s.rom)) 1 0 960
      (addressLength b) (prologue s)
    have c (xs : List Slot) (len : Nat) (t : State) :
        issued xs 0 len (setPresence true t) = setPresence true (issued xs 0 len t) := rfl
    cases bcast with
    | true =>
      simp only [Bool.not_false, if_true, skipRomSeq_eq, setPresence_rom, c, resetLength_eq]
      congr 2
      exact e true
    | false =>
      simp only [Bool.not_false, if_true, matchRomSeq_eq, setPresence_rom, c, resetLength_eq,
        Bool.false_eq_true, reduceIte]
      congr 2
      exact e false

/-! ### Bytes from the wire -/

theorem getLsbD_setBit (v : Byte) (j i : Nat) (b : Bool) (hj : j < 8) :
    (setBit v j b).getLsbD i = if i = j then b else v.getLsbD i := by
  by_cases hi : i < 8
  · have hbit : ((1#8 <<< j)).getLsbD i = decide (i = j) := by
      rw [BitVec.getLsbD_shiftLeft, BitVec.getLsbD_one]
      by_cases h : i = j
      · simp [h, hj]
      · by_cases hlt : i < j
        · simp [h, hlt]
        · simp [h, hi, hlt]
          omega
    cases b
    · rw [setBit, if_neg (by decide), BitVec.getLsbD_and, BitVec.getLsbD_not, hbit]
      by_cases h : i = j <;> simp [h, hi, hj]
    · rw [setBit, if_pos rfl, BitVec.getLsbD_or, hbit]
      by_cases h : i = j <;> simp [h]
  · have hne : i ≠ j := by omega
    rw [if_neg hne, BitVec.getLsbD_of_ge _ _ (by omega), BitVec.getLsbD_of_ge _ _ (by omega)]

theorem rxSlots_succ (s : State) (k n : Nat) :
    rxSlots s k (n + 1) = .read (s.sampleAt k) :: rxSlots s (k + 1) n := by
  simp [rxSlots, List.range_succ_eq_map, Function.comp_def]
  intro a _
  congr 1
  omega

theorem rxSlots_issued (xs : List Slot) (n len k m : Nat) (s : State) :
    rxSlots (issued xs n len s) k m = rxSlots s (n + k) m := by
  simp [rxSlots, Nat.add_assoc]

/-- n + 1 read slots into the bits from j on. -/
theorem readBitsFrom_eq (j n : Nat) (v : Byte) (s : State) (h : j + (n + 1) ≤ 8) :
    (readBitsFrom j (n + 1) v s).2 = issued (rxSlots s 0 (n + 1)) (n + 1) (48 * (n + 1)) s ∧
    ∀ i, (readBitsFrom j (n + 1) v s).1.getLsbD i =
      if j ≤ i ∧ i < j + (n + 1) then s.sampleAt (i - j) else v.getLsbD i := by
  induction n generalizing j v s with
  | zero =>
    refine ⟨by simp [readBitsFrom, readSlot_eq, rxSlots], fun i => ?_⟩
    simp only [readBitsFrom, readSlot_eq, getLsbD_setBit _ _ _ _ (by omega : j < 8)]
    by_cases hi : i = j
    · subst hi; simp
    · rw [if_neg hi, if_neg (by omega)]
  | succ n ih =>
    have hrec : readBitsFrom j (n + 1 + 1) v s =
        readBitsFrom (j + 1) (n + 1) (setBit v j (s.sampleAt 0))
          (issued [.read (s.sampleAt 0)] 1 readLength s) := by
      conv => lhs; unfold readBitsFrom
      simp [readSlot_eq]
    obtain ⟨h1, h2⟩ := ih (j + 1) (setBit v j (s.sampleAt 0))
      (issued [.read (s.sampleAt 0)] 1 readLength s) (by omega)
    rw [hrec]
    refine ⟨?_, fun i => ?_⟩
    · rw [h1, rxSlots_issued, issued_issued, rxSlots_succ s 0 (n + 1)]
      simp only [List.cons_append, List.nil_append, readLength_eq]
      congr 1 <;> omega
    · rw [h2, getLsbD_setBit _ _ _ _ (by omega : j < 8), sampleAt_issued]
      by_cases hi : i = j
      · subst hi
        rw [if_neg (by omega), if_pos (by omega)]
        simp
      · by_cases hj : j + 1 ≤ i ∧ i < j + 1 + (n + 1)
        · rw [if_pos hj, if_pos (by omega)]
          congr 1
          omega
        · rw [if_neg hj, if_neg hi, if_neg (by omega)]

/-- `ReadByteSeq()` (R145): eight read slots, the byte assembled from the next eight samples. -/
theorem readByteSeq_eq (s : State) :
    (readByteSeq s).2 = issued (rxSlots s 0 8) 8 384 s ∧ AssembledFrom s 0 (readByteSeq s).1 := by
  obtain ⟨h1, h2⟩ := readBitsFrom_eq 0 7 0 s (by omega)
  refine ⟨h1, fun j hj => ?_⟩
  have := h2 j
  rw [if_pos (by omega)] at this
  rw [Nat.zero_add]
  exact this

theorem AssembledFrom.unique {s : State} {k : Nat} {v w : Byte} (hv : AssembledFrom s k v)
    (hw : AssembledFrom s k w) : v = w := by
  apply BitVec.eq_of_getLsbD_eq
  intro i hi
  rw [hv i hi, hw i hi]

theorem assembledFrom_issued (xs : List Slot) (n len k : Nat) (s : State) (v : Byte) :
    AssembledFrom (issued xs n len s) k v ↔ AssembledFrom s (n + k) v := by
  simp [AssembledFrom, Nat.add_assoc]

@[simp] theorem byteAt_setByte {n : Nat} (v : Vector Byte n) (k j : Nat) (x : Byte) (hk : k < n) :
    byteAt (setByte v k x) j = if j = k then x else byteAt v j := by
  by_cases h : j = k
  · subst h; simp [byteAt, setByte, hk]
  · by_cases hj : j < n
    · simp [byteAt, setByte, h, hj, Ne.symm h]
    · simp [byteAt, setByte, h, hj]

theorem rxSlots_append (s : State) (k n m : Nat) :
    rxSlots s k n ++ rxSlots s (k + n) m = rxSlots s k (n + m) := by
  simp [rxSlots, List.range_add, Function.comp_def, Nat.add_assoc]

/-- BUF as a whole. -/
def withBuf (b : Buf) (s : State) : State := { s with buf := b }

/-- `BUF[j] <- ReadByteSeq()` for n + 1 bytes from j = k on: the slots, the bytes read, and the bytes
left alone. -/
theorem readBufFrom_eq (k n : Nat) (s : State) (h : k + (n + 1) ≤ 9) :
    (∃ b : Buf, readBufFrom k (n + 1) s =
      withBuf b (issued (rxSlots s 0 (8 * (n + 1))) (8 * (n + 1)) (384 * (n + 1)) s) ∧
      (∀ j, j < n + 1 → AssembledFrom s (8 * j) (byteAt b (k + j))) ∧
      (∀ j, j < k ∨ k + (n + 1) ≤ j → byteAt b j = byteAt s.buf j)) := by
  induction n generalizing k s with
  | zero =>
    obtain ⟨h1, h2⟩ := readByteSeq_eq s
    refine ⟨setByte s.buf k (readByteSeq s).1, ?_, ?_, ?_⟩
    · simp only [readBufFrom, h1]
      rfl
    · intro j hj
      obtain rfl : j = 0 := by omega
      rw [byteAt_setByte _ _ _ _ (by omega)]
      simpa using h2
    · intro j hj
      rw [byteAt_setByte _ _ _ _ (by omega), if_neg (by omega)]
  | succ n ih =>
    obtain ⟨h1, h2⟩ := readByteSeq_eq s
    have hrec : readBufFrom k (n + 1 + 1) s =
        readBufFrom (k + 1) (n + 1) (issued (rxSlots s 0 8) 8 384
          (withBuf (setByte s.buf k (readByteSeq s).1) s)) := by
      conv => lhs; unfold readBufFrom
      simp only [h1]
      rfl
    obtain ⟨b, hb1, hb2, hb3⟩ := ih (k + 1) (issued (rxSlots s 0 8) 8 384
      (withBuf (setByte s.buf k (readByteSeq s).1) s)) (by omega)
    refine ⟨b, ?_, ?_, ?_⟩
    · have hr (v : Buf) : rxSlots (withBuf v s) = rxSlots s := rfl
      have hc (xs : List Slot) (m len : Nat) (v w : Buf) :
          withBuf w (issued xs m len (withBuf v s)) = withBuf w (issued xs m len s) := rfl
      rw [hrec, hb1, rxSlots_issued, hr, issued_issued, hc]
      have e1 : rxSlots s 0 8 ++ rxSlots s (8 + 0) (8 * (n + 1)) = rxSlots s 0 (8 * (n + 1 + 1)) := by
        have := rxSlots_append s 0 8 (8 * (n + 1))
        simp only [Nat.zero_add, Nat.add_zero] at this ⊢
        rw [this]
        congr 1
        omega
      rw [e1]
      have e2 : 8 + 8 * (n + 1) = 8 * (n + 1 + 1) := by omega
      have e3 : 384 + 384 * (n + 1) = 384 * (n + 1 + 1) := by omega
      rw [e2, e3]
    · intro j hj
      cases j with
      | zero =>
        have := hb3 k (by omega)
        simp only [Nat.add_zero, Nat.mul_zero]
        have hw : (issued (rxSlots s 0 8) 8 384 (withBuf (setByte s.buf k (readByteSeq s).1) s)).buf =
            setByte s.buf k (readByteSeq s).1 := rfl
        rw [this, hw, byteAt_setByte _ _ _ _ (by omega), if_pos rfl]
        exact h2
      | succ j =>
        have := hb2 j (by omega)
        have ha : AssembledFrom (issued (rxSlots s 0 8) 8 384 s) (8 * j) (byteAt b (k + 1 + j)) := by
          intro i hi
          rw [this i hi]
          rfl
        rw [assembledFrom_issued] at ha
        have e : k + 1 + j = k + (j + 1) := by omega
        have e' : 8 + 8 * j = 8 * (j + 1) := by omega
        rwa [e, e'] at ha
    · intro j hj
      have hw : (issued (rxSlots s 0 8) 8 384 (withBuf (setByte s.buf k (readByteSeq s).1) s)).buf =
          setByte s.buf k (readByteSeq s).1 := rfl
      rw [hb3 j (by omega), hw, byteAt_setByte _ _ _ _ (by omega), if_neg (by omega)]

/-! ### Fields through `issued` -/

@[simp] theorem issued_owOut (xs : List Slot) (n len : Nat) (s : State) :
    (issued xs n len s).owOut = true := rfl
@[simp] theorem issued_crit (xs : List Slot) (n len : Nat) (s : State) :
    (issued xs n len s).crit = false := rfl
@[simp] theorem issued_trace (xs : List Slot) (n len : Nat) (s : State) :
    (issued xs n len s).trace = s.trace ++ xs := rfl
@[simp] theorem issued_ticks (xs : List Slot) (n len : Nat) (s : State) :
    (issued xs n len s).ticks = s.ticks + len := rfl
@[simp] theorem issued_buf (xs : List Slot) (n len : Nat) (s : State) :
    (issued xs n len s).buf = s.buf := rfl
@[simp] theorem issued_rom (xs : List Slot) (n len : Nat) (s : State) :
    (issued xs n len s).rom = s.rom := rfl
@[simp] theorem issued_spuEn (xs : List Slot) (n len : Nat) (s : State) :
    (issued xs n len s).spuEn = s.spuEn := rfl

/-- A run of slots changes nothing but what it must (R53). -/
theorem issued_frame (xs : List Slot) (n len : Nat) (s : State) :
    sameExcept [.owOut, .crit, .line, .draws, .trace, .ticks] s (issued xs n len s) := by
  intro f hf
  cases f <;> first | rfl | (exact absurd (by simp) hf)

end Sys2Proof.Machine
end

