-- ==== Sys2Proof/Laws/HostPort.lean ====
section
/-! SUPPORT. The host port, said once: what a read shows, that it leaves the engine alone, and how an edge of `clk`
is its state part and its port. -/

namespace Sys2Proof.Machine

theorem showRead_idle {s : State} (h : s.busy = false) (a : Addr) (t : State) :
    showRead a s t = setRdata (readReg a s) t := by
  simp [showRead, h]

theorem showRead_status (s t : State) : showRead 0x01 s t = setRdata (readReg 0x01 s) t := by
  simp [showRead]

theorem showRead_busy {s : State} (h : s.busy = true) {a : Addr} (ha : a ≠ 0x01) (t : State) :
    showRead a s t = setFreeRdata t := if_pos ⟨h, ha⟩

/-- A read shows some word, and changes nothing but the port and the counter of free words. -/
theorem showRead_cases (a : Addr) (s t : State) :
    ∃ v n, showRead a s t = { t with hRdata := some v, readDraws := n } := by
  unfold showRead
  split
  · exact ⟨_, _, rfl⟩
  · exact ⟨readReg a s, t.readDraws, rfl⟩

/-- The frame of the port of a cycle. -/
theorem readPort_frame (h : Option Access) (s t : State) : sameExcept [.hRdata, .readDraws] t (readPort h s t) := by
  have hr (a : Addr) : sameExcept [.hRdata, .readDraws] t (showRead a s t) := by
    obtain ⟨v, n, e⟩ := showRead_cases a s t
    rw [e]
    intro f hf
    cases f <;> first | rfl | exact absurd (by simp) hf
  cases h with
  | none => intro f _; cases f <;> rfl
  | some x =>
    cases x with
    | read a => exact hr a
    | write a v => intro f _; cases f <;> rfl

/-- The state elements do not see the read of a cycle. -/
theorem stateEdge_read (r u : Bool) (a : Addr) (s : State) :
    stateEdge ⟨r, u, some (.read a)⟩ s = stateEdge ⟨r, u, none⟩ s := rfl

/-- With BUSY = 1 they do not see the write either (R75). -/
theorem stateEdge_busy (r u : Bool) (h k : Option Access) {s : State} (hb : s.busy = true) :
    stateEdge ⟨r, u, h⟩ s = stateEdge ⟨r, u, k⟩ s := by
  simp only [stateEdge, hb, if_true]

/-- An edge is its state part and then its port. -/
theorem clkEdge_next {c : Cycle} {s t : State} (h : stateEdge c s = .next t) :
    clkEdge c s = .next (readPort c.host s t) := by
  simp only [clkEdge, h]

/-- An edge with nothing on the host port is its state part. -/
theorem clkEdge_quiet (r u : Bool) (s : State) : clkEdge ⟨r, u, none⟩ s = stateEdge ⟨r, u, none⟩ s := by
  unfold clkEdge
  cases stateEdge ⟨r, u, none⟩ s <;> rfl

end Sys2Proof.Machine
end

