-- ==== Sys2Proof/Laws/HostProgram.lean ====
section
/-! SUPPORT. Host programs, said once: programs and their runs one after another, and what one turn does. -/

namespace Sys2Proof.Machine

@[simp] theorem Prog.bind_done {α β : Type} (a : α) (f : α → Prog β) : (Prog.done a).bind f = f a := rfl

@[simp] theorem Prog.bind_write {α β : Type} (a : Addr) (v : Word) (k : Prog α) (f : α → Prog β) :
    (Prog.write a v k).bind f = .write a v (k.bind f) := rfl

@[simp] theorem Prog.bind_read {α β : Type} (a : Addr) (k : Word → Prog α) (f : α → Prog β) :
    (Prog.read a k).bind f = .read a fun v => (k v).bind f := rfl

@[simp] theorem Prog.bind_wait {α β : Type} (k : Prog α) (f : α → Prog β) :
    (Prog.wait k).bind f = .wait (k.bind f) := rfl

theorem Prog.bind_assoc {α β γ : Type} (p : Prog α) (f : α → Prog β) (g : β → Prog γ) :
    (p.bind f).bind g = p.bind fun a => (f a).bind g := by
  induction p with
  | done a => rfl
  | write a v k ih => simp only [Prog.bind_write, ih]
  | read a k ih => simp only [Prog.bind_read, ih]
  | wait k ih => simp only [Prog.bind_wait, ih]

/-- A turn in which the host has an access is one step of the machine. -/
theorem Prog.run_step {α : Type} {c : Turn} {cs : List Turn} {p : Prog α} {i : Input} {s t : State}
    (hi : c.input? p.access? = some i) (h : step (schedule i s) = .next t) :
    p.run (c :: cs) s = (p.after t.hRdata).run cs t := by
  simp only [Prog.run, hi, h]

/-- A run over more turns is a run over the first ones, then over the others. -/
theorem Prog.run_append {α : Type} (cs ds : List Turn) (p q : Prog α) (s t : State)
    (h : p.run cs s = .next (q, t)) : p.run (cs ++ ds) s = q.run ds t := by
  induction cs generalizing p s with
  | nil =>
    simp only [Prog.run, Host.Outcome.next.injEq, Prod.mk.injEq] at h
    obtain ⟨rfl, rfl⟩ := h
    rfl
  | cons c cs ih =>
    simp only [Prog.run, List.cons_append] at h ⊢
    cases hi : c.input? p.access? with
    | none =>
      simp only [hi] at h ⊢
      exact ih p s h
    | some i =>
      simp only [hi] at h ⊢
      cases hs : step (schedule i s) with
      | next u =>
        simp only [hs] at h ⊢
        exact ih _ u h
      | fault r => simp only [hs] at h; cases h
      | refused r => simp only [hs] at h; cases h

/-- A wait ends at the first STATUS with BUSY = 0, and goes on at one with BUSY = 1 (R112). -/
theorem Prog.after_wait {α : Type} (k : Prog α) (v : Word) :
    (Prog.wait k).after (some v) = if v.getLsbD 0 then .wait k else k := rfl

/-- Splitting a transfer loses no byte (R120). -/
theorem transferSizes_sum (n : Nat) : (transferSizes n).sum = n := by
  unfold transferSizes
  split <;> simp only [List.sum_append, List.sum_replicate, List.sum_cons, List.sum_nil, smul_eq_mul] <;> omega

/-- Every command of a split transfer has a legal count (R120). -/
theorem transferSizes_legal (n k : Nat) (h : k ∈ transferSizes n) : 1 ≤ k ∧ k ≤ 9 := by
  unfold transferSizes at h
  rw [List.mem_append] at h
  rcases h with h | h
  · have := List.eq_of_mem_replicate h
    omega
  · split at h
    · cases h
    · have : k = n % 9 := by simpa using h
      omega

end Sys2Proof.Machine
end

