-- ==== Sys2Proof/Laws/PerInstr.lean ====
section
/-! SUPPORT. Statements about every command as syntax, one lemma per constructor: the three fields of a
command's word (30_encoding.md R100). -/

namespace Sys2Proof.Laws.CommandWord

open Sys2Proof

/-- R100: ZERO is 0, OPC is the command's opcode and ARG its operand. -/
def Statement (i : Instr) : Prop :=
  (encode i).extractLsb' 16 16 = 0 ∧ wordOpc (encode i) = i.opc ∧ wordArg (encode i) = i.arg

theorem of_encode (i : Instr) : Statement i :=
  ⟨commandWord_high _ _, wordOpc_commandWord _ _, wordArg_commandWord _ _⟩

theorem nop : Statement .nop := of_encode _

theorem reset : Statement .reset := of_encode _

theorem readBit : Statement .readBit := of_encode _

theorem writeBit (bit : Bool) : Statement (.writeBit bit) := of_encode _

theorem readByte : Statement .readByte := of_encode _

theorem writeByte (imm : Byte) : Statement (.writeByte imm) := of_encode _

theorem readBytes (n : Byte) : Statement (.readBytes n) := of_encode _

theorem writeBytes (n : Byte) : Statement (.writeBytes n) := of_encode _

theorem crcClr : Statement .crcClr := of_encode _

theorem crcUpd (imm : Byte) : Statement (.crcUpd imm) := of_encode _

theorem crcBuf (n : Byte) : Statement (.crcBuf n) := of_encode _

theorem crcRom (srom : Bool) : Statement (.crcRom srom) := of_encode _

theorem searchInit : Statement .searchInit := of_encode _

theorem searchNext : Statement .searchNext := of_encode _

theorem romTake : Statement .romTake := of_encode _

theorem select : Statement .select := of_encode _

theorem skip : Statement .skip := of_encode _

theorem convert (bcast : Bool) : Statement (.convert bcast) := of_encode _

theorem readSpad : Statement .readSpad := of_encode _

theorem writeSpad : Statement .writeSpad := of_encode _

theorem decodeTemp : Statement .decodeTemp := of_encode _

theorem getRes : Statement .getRes := of_encode _

theorem setRes (bits : Byte) : Statement (.setRes bits) := of_encode _

theorem powerMode (bcast : Bool) : Statement (.powerMode bcast) := of_encode _

end Sys2Proof.Laws.CommandWord
end

