-- ==== Sys2Proof/Laws/RomSearch.lean ====
section
/-! SUPPORT. The search loop of 42_rom_search.md R207 one position at a time, and the bits of a ROM under
`setRomBit` (R202). -/

namespace Sys2Proof.Machine

/-! ### Positions and bits (R202) -/

theorem byteAt_setByte_of_ge {n : Nat} (v : Vector Byte n) (k j : Nat) (x : Byte) (hk : n ≤ k) :
    byteAt (setByte v k x) j = byteAt v j := by
  by_cases hj : j < n
  · have : k ≠ j := by omega
    simp [byteAt, setByte, hj, this]
  · simp [byteAt, setByte, hj]

/-- Position i of a ROM after the bit of position n was set: only that position changes. -/
theorem romBit_setRomBit (r : Rom) (n i : Nat) (b : Bool) (hn : 1 ≤ n) (hn' : n ≤ 64) (hi : 1 ≤ i)
    (hi' : i ≤ 64) : romBit (setRomBit r n b) i = if i = n then b else romBit r i := by
  have hk : posByte n < 8 := by simp only [posByte]; omega
  have hj : posBit n < 8 := by simp only [posBit]; omega
  simp only [romBit, setRomBit]
  rw [byteAt_setByte _ _ _ _ hk]
  by_cases hki : posByte i = posByte n
  · rw [if_pos hki, getLsbD_setBit _ _ _ _ hj, hki]
    by_cases hji : posBit i = posBit n
    · have : i = n := by simp only [posByte, posBit] at hki hji; omega
      rw [if_pos hji, if_pos this]
    · have : i ≠ n := by rintro rfl; exact hji rfl
      rw [if_neg hji, if_neg this]
  · have : i ≠ n := by rintro rfl; exact hki rfl
    rw [if_neg hki, if_neg this]

/-- Two ROMs with the same bit at every position are equal. -/
theorem rom_eq_of_romBit (r q : Rom) (h : ∀ i, 1 ≤ i → i ≤ 64 → romBit r i = romBit q i) : r = q := by
  apply Vector.ext
  intro k hk
  apply BitVec.eq_of_getLsbD_eq
  intro j hj
  have hkj := h (64 - 8 * k - j) (by omega) (by omega)
  have e1 : posByte (64 - 8 * k - j) = k := by simp only [posByte]; omega
  have e2 : posBit (64 - 8 * k - j) = j := by simp only [posBit]; omega
  simpa [romBit, e1, e2, byteAt, hk] using hkj

/-! ### One position of the loop -/

/-- The bit chosen at position n from the two bits read (R203, R204). -/
def choose (srom : Rom) (ldisc : Pos) (n : Nat) (a c : Bool) : Bool :=
  if !a && !c then takesBranchOne srom ldisc (BitVec.ofNat 7 n) else a

/-- The branch rule in plain numbers (R204). -/
theorem takesBranchOne_eq (srom : Rom) (ldisc : Pos) (n : Nat) (hn : n ≤ 64) :
    takesBranchOne srom ldisc (BitVec.ofNat 7 n) =
      (decide (ldisc.toNat > n) || (romBit srom n && decide (ldisc.toNat ≠ n))) := by
  have e : (BitVec.ofNat 7 n).toNat = n := by
    rw [BitVec.toNat_ofNat]
    exact Nat.mod_eq_of_lt (by omega)
  have h : (ldisc ≠ BitVec.ofNat 7 n) ↔ (ldisc.toNat ≠ n) := by
    rw [ne_eq, ne_eq, ← BitVec.toNat_inj, e]
  simp only [takesBranchOne, e, h]

/-- What the two read slots of position n leave (R203). -/
def positionRead (n : Nat) (s : State) : State :=
  setCmpb (s.sampleAt 1) (setIdb (s.sampleAt 0)
    (setPosition n (issued [.read (s.sampleAt 0), .read (s.sampleAt 1)] 2 96 s)))

/-- The bit written at position n. -/
def positionBit (n : Nat) (s : State) : Bool :=
  choose s.srom s.ldisc n (s.sampleAt 0) (s.sampleAt 1)

/-- WROM and NDISC after a position (R204, R205). -/
def noteChoice (n : Nat) (coll b : Bool) (s : State) : State :=
  { s with
    wrom := setRomBit s.wrom (BitVec.ofNat 7 n).toNat b
    ndisc := if coll && b then BitVec.ofNat 7 n else s.ndisc }

/-- What a whole position n leaves that was answered (R204, R205). -/
def positionDone (n : Nat) (s : State) : State :=
  noteChoice n (!s.sampleAt 0 && !s.sampleAt 1) (positionBit n s)
    (setCmpb (s.sampleAt 1) (setIdb (s.sampleAt 0) (setPosition n
      (issued [.read (s.sampleAt 0), .read (s.sampleAt 1), .write (positionBit n s)] 2 160 s))))

theorem readSlot_setPosition (n : Nat) (s : State) :
    readSlot (setPosition n s) = ((readSlot s).1, setPosition n (readSlot s).2) := by
  rw [readSlot_eq, readSlot_eq]
  rfl

theorem readSlot_setIdb (b : Bool) (s : State) :
    readSlot (setIdb b s) = ((readSlot s).1, setIdb b (readSlot s).2) := by
  rw [readSlot_eq, readSlot_eq]
  rfl

theorem writeSlot_setCmpb (w b : Bool) (s : State) :
    writeSlot w (setCmpb b s) = setCmpb b (writeSlot w s) := rfl

theorem writeSlot_setIdb (w b : Bool) (s : State) :
    writeSlot w (setIdb b s) = setIdb b (writeSlot w s) := rfl

theorem writeSlot_setPosition (w : Bool) (n : Nat) (s : State) :
    writeSlot w (setPosition n s) = setPosition n (writeSlot w s) := rfl

theorem recordChoice_eq (n : Nat) (a c : Bool) (s : State) :
    recordChoice (setCmpb c (setIdb a (setPosition n s))) =
      noteChoice n (!a && !c) (choose s.srom s.ldisc n a c) (setCmpb c (setIdb a (setPosition n s))) :=
  rfl

/-- One turn of the loop of R207: the fault after the two read slots, or the position done and on. -/
theorem searchFrom_succ (n : Nat) (s : State) :
    searchFrom (n + 1) s =
      if s.sampleAt 0 && s.sampleAt 1 then
        raise .busCollisionFault (BitVec.ofNat 7 (n + 1)) (positionRead (n + 1) s)
      else searchFrom n (positionDone (n + 1) s) := by
  have e1 : readSlot (setPosition (n + 1) s) =
      (s.sampleAt 0, setPosition (n + 1) (issued [.read (s.sampleAt 0)] 1 48 s)) := by
    rw [readSlot_setPosition, readSlot_eq, readLength_eq]
  have e2 : readSlot (setIdb (s.sampleAt 0) (setPosition (n + 1) (issued [.read (s.sampleAt 0)] 1 48 s))) =
      (s.sampleAt 1, setIdb (s.sampleAt 0) (setPosition (n + 1)
        (issued [.read (s.sampleAt 0), .read (s.sampleAt 1)] 2 96 s))) := by
    rw [readSlot_setIdb, readSlot_setPosition, readSlot_eq, sampleAt_issued, readLength_eq, issued_issued]
    rfl
  conv => lhs; unfold searchFrom
  simp only [e1, e2]
  have hr : setCmpb (s.sampleAt 1) (setIdb (s.sampleAt 0) (setPosition (n + 1)
      (issued [.read (s.sampleAt 0), .read (s.sampleAt 1)] 2 96 s))) = positionRead (n + 1) s := rfl
  have hd : recordChoice (writeSlot (chosenBit (positionRead (n + 1) s)) (positionRead (n + 1) s)) =
      positionDone (n + 1) s := by
    have hb : chosenBit (positionRead (n + 1) s) = positionBit (n + 1) s := rfl
    rw [hb, positionRead, writeSlot_setCmpb, writeSlot_setIdb, writeSlot_setPosition, writeSlot_eq,
      writeLength_eq, issued_issued, recordChoice_eq]
    rfl
  rw [hr, hd]
  rfl

/-! ### The whole loop -/

/-- The m positions n, n − 1, ... one after the other, all answered. -/
def walk : Nat → Nat → State → State
  | 0, _, s => s
  | m + 1, n, s => walk m (n - 1) (positionDone n s)

@[simp] theorem positionDone_sampleAt (n k : Nat) (s : State) :
    (positionDone n s).sampleAt k = s.sampleAt (2 + k) := by
  have : (positionDone n s).sampleAt k = (issued [.read (s.sampleAt 0), .read (s.sampleAt 1),
      .write (positionBit n s)] 2 160 s).sampleAt k := rfl
  rw [this, sampleAt_issued]

/-- With its first m positions answered the loop goes through them and on. -/
theorem searchFrom_walk (m r : Nat) (s : State)
    (h : ∀ k, k < m → ¬ (s.sampleAt (2 * k) = true ∧ s.sampleAt (2 * k + 1) = true)) :
    searchFrom (m + r) s = searchFrom r (walk m (m + r) s) := by
  induction m generalizing s with
  | zero => rw [Nat.zero_add, walk]
  | succ m ih =>
    have h0 : ¬ (s.sampleAt 0 && s.sampleAt 1) = true := by
      have := h 0 (by omega)
      simpa using this
    have e : m + 1 + r = m + r + 1 := by omega
    rw [e, searchFrom_succ, if_neg h0, walk, Nat.add_sub_cancel]
    apply ih
    intro k hk
    have := h (k + 1) (by omega)
    have e1 : 2 * (k + 1) = 2 + 2 * k := by omega
    rw [positionDone_sampleAt, positionDone_sampleAt]
    rwa [e1, Nat.add_assoc] at this

/-- The bit chosen at position i by a walk that starts at position n. -/
def turnChoice (n : Nat) (s : State) (i : Nat) : Bool :=
  choose s.srom s.ldisc i (s.sampleAt (2 * (n - i))) (s.sampleAt (2 * (n - i) + 1))

/-- Position i is a collision that such a walk resolves by branch 1: it becomes NDISC. -/
def turnNoted (n : Nat) (s : State) (i : Nat) : Bool :=
  !s.sampleAt (2 * (n - i)) && !s.sampleAt (2 * (n - i) + 1) && turnChoice n s i

/-- The slots of the m positions n, n − 1, ... -/
def turnSlots (m n : Nat) (s : State) : List Slot :=
  (List.range m).flatMap fun k =>
    [.read (s.sampleAt (2 * k)), .read (s.sampleAt (2 * k + 1)), .write (turnChoice n s (n - k))]

/-- The search working state (R50) as a whole. -/
def withWork (w : Rom) (nd p : Pos) (a c : Bool) (s : State) : State :=
  { s with wrom := w, ndisc := nd, pos := p, idb := a, cmpb := c }

theorem positionDone_eq (n : Nat) (s : State) :
    positionDone n s =
      withWork (setRomBit s.wrom (BitVec.ofNat 7 n).toNat (positionBit n s))
        (if (!s.sampleAt 0 && !s.sampleAt 1) && positionBit n s then BitVec.ofNat 7 n else s.ndisc)
        (BitVec.ofNat 7 n) (s.sampleAt 0) (s.sampleAt 1)
        (issued [.read (s.sampleAt 0), .read (s.sampleAt 1), .write (positionBit n s)] 2 160 s) := rfl

theorem turnChoice_positionDone (n : Nat) (s : State) (i : Nat) (hi : i < n) :
    turnChoice (n - 1) (positionDone n s) i = turnChoice n s i := by
  have e1 : 2 + 2 * (n - 1 - i) = 2 * (n - i) := by omega
  have e2 : 2 + (2 * (n - 1 - i) + 1) = 2 * (n - i) + 1 := by omega
  have hs : (positionDone n s).srom = s.srom := rfl
  have hl : (positionDone n s).ldisc = s.ldisc := rfl
  simp only [turnChoice, positionDone_sampleAt, e1, e2, hs, hl]

theorem turnNoted_positionDone (n : Nat) (s : State) (i : Nat) (hi : i < n) :
    turnNoted (n - 1) (positionDone n s) i = turnNoted n s i := by
  have e1 : 2 + 2 * (n - 1 - i) = 2 * (n - i) := by omega
  have e2 : 2 + (2 * (n - 1 - i) + 1) = 2 * (n - i) + 1 := by omega
  simp only [turnNoted, positionDone_sampleAt, e1, e2, turnChoice_positionDone n s i hi]

theorem turnSlots_succ (m n : Nat) (s : State) (h : m + 1 ≤ n) :
    turnSlots (m + 1) n s =
      [.read (s.sampleAt 0), .read (s.sampleAt 1), .write (positionBit n s)] ++
        turnSlots m (n - 1) (positionDone n s) := by
  have h0 : turnChoice n s n = positionBit n s := by simp [turnChoice, positionBit]
  simp only [turnSlots, List.range_succ_eq_map, List.flatMap_cons, Nat.mul_zero, Nat.sub_zero, h0,
    Nat.zero_add, List.flatMap_map]
  congr 1
  apply List.flatMap_congr
  intro k hk
  have hk' : k < m := by simpa using hk
  have e1 : 2 * (k + 1) = 2 + 2 * k := by omega
  have e3 : n - (k + 1) = n - 1 - k := by omega
  have := turnChoice_positionDone n s (n - 1 - k) (by omega)
  simp only [Nat.succ_eq_add_one, positionDone_sampleAt, e1, e3, this, Nat.add_assoc]

/-- All that m + 1 answered positions do (R203 to R205): the slots, the bits of WROM, and NDISC as the last position at
which a collision took branch 1. -/
theorem walk_eq (m n : Nat) (s : State) (hm : m + 1 ≤ n) (hn : n ≤ 64) :
    ∃ w nd p a c, walk (m + 1) n s =
        withWork w nd p a c (issued (turnSlots (m + 1) n s) (2 * (m + 1)) (160 * (m + 1)) s) ∧
      (∀ i, 1 ≤ i → i ≤ 64 → romBit w i =
        if n - (m + 1) < i ∧ i ≤ n then turnChoice n s i else romBit s.wrom i) ∧
      ((nd = s.ndisc ∧ ∀ i, n - (m + 1) < i → i ≤ n → turnNoted n s i = false) ∨
        ∃ i, n - (m + 1) < i ∧ i ≤ n ∧ nd = BitVec.ofNat 7 i ∧ turnNoted n s i = true ∧
          ∀ j, n - (m + 1) < j → j < i → turnNoted n s j = false) := by
  have hb : turnChoice n s n = positionBit n s := by simp [turnChoice, positionBit]
  have hnote : turnNoted n s n = ((!s.sampleAt 0 && !s.sampleAt 1) && positionBit n s) := by
    simp [turnNoted, hb]
  have en : (BitVec.ofNat 7 n).toNat = n := by
    rw [BitVec.toNat_ofNat]
    exact Nat.mod_eq_of_lt (by omega)
  induction m generalizing n s with
  | zero =>
    refine ⟨setRomBit s.wrom (BitVec.ofNat 7 n).toNat (positionBit n s),
      if (!s.sampleAt 0 && !s.sampleAt 1) && positionBit n s then BitVec.ofNat 7 n else s.ndisc,
      BitVec.ofNat 7 n, s.sampleAt 0, s.sampleAt 1, ?_, ?_, ?_⟩
    · have e : turnSlots 1 n s =
          [.read (s.sampleAt 0), .read (s.sampleAt 1), .write (positionBit n s)] := by
        rw [turnSlots_succ 0 n s (by omega)]
        simp [turnSlots]
      rw [walk, walk, positionDone_eq, Nat.zero_add, e]
    · intro i hi hi'
      rw [en, romBit_setRomBit _ _ _ _ (by omega) hn hi hi']
      by_cases h : i = n
      · rw [if_pos h, if_pos (by omega), h, hb]
      · rw [if_neg h, if_neg (by omega)]
    · cases ht : turnNoted n s n with
      | true =>
        rw [hnote] at ht
        rw [if_pos ht]
        refine .inr ⟨n, by omega, Nat.le_refl n, rfl, by rw [hnote, ht], fun j h1 h2 => by omega⟩
      | false =>
        rw [hnote] at ht
        rw [if_neg (by rw [ht]; decide)]
        refine .inl ⟨rfl, fun i h1 h2 => ?_⟩
        obtain rfl : i = n := by omega
        rw [hnote, ht]
  | succ m ih =>
    have hb' : turnChoice (n - 1) (positionDone n s) (n - 1) = positionBit (n - 1) (positionDone n s) := by
      simp [turnChoice, positionBit]
    obtain ⟨w, nd, p, a, c, h1, h2, h3⟩ := ih (n - 1) (positionDone n s) (by omega) (by omega) hb'
      (by simp [turnNoted, hb']) (by rw [BitVec.toNat_ofNat]; exact Nat.mod_eq_of_lt (by omega))
    refine ⟨w, nd, p, a, c, ?_, ?_, ?_⟩
    · have hc (w' : Rom) (nd' p' : Pos) (a' c' : Bool) (xs : List Slot) (k l : Nat) (t : State) :
          withWork w nd p a c (issued xs k l (withWork w' nd' p' a' c' t)) =
            withWork w nd p a c (issued xs k l t) := rfl
      rw [walk, h1]
      conv => lhs; rw [positionDone_eq n s, hc, issued_issued, ← positionDone_eq n s]
      rw [turnSlots_succ (m + 1) n s hm]
      have e1 : 2 + 2 * (m + 1) = 2 * (m + 1 + 1) := by omega
      have e2 : 160 + 160 * (m + 1) = 160 * (m + 1 + 1) := by omega
      rw [e1, e2]
    · intro i hi hi'
      rw [h2 i hi hi']
      by_cases h : n - 1 - (m + 1) < i ∧ i ≤ n - 1
      · rw [if_pos h, if_pos (by omega), turnChoice_positionDone n s i (by omega)]
      · rw [if_neg h]
        have hw : (positionDone n s).wrom = setRomBit s.wrom (BitVec.ofNat 7 n).toNat (positionBit n s) :=
          rfl
        rw [hw, en, romBit_setRomBit _ _ _ _ (by omega) hn hi hi']
        by_cases h' : i = n
        · rw [if_pos h', if_pos (by omega), h', hb]
        · rw [if_neg h', if_neg (by omega)]
    · rcases h3 with ⟨h3, h4⟩ | ⟨i, h3, h4, h5, h6, h7⟩
      · have hnd : (positionDone n s).ndisc =
            if (!s.sampleAt 0 && !s.sampleAt 1) && positionBit n s then BitVec.ofNat 7 n else s.ndisc := rfl
        rw [hnd] at h3
        cases ht : turnNoted n s n with
        | true =>
          rw [hnote] at ht
          rw [if_pos ht] at h3
          refine .inr ⟨n, by omega, Nat.le_refl n, h3, by rw [hnote, ht], fun j hj1 hj2 => ?_⟩
          rw [← turnNoted_positionDone n s j hj2]
          exact h4 j (by omega) (by omega)
        | false =>
          rw [hnote] at ht
          rw [if_neg (by rw [ht]; decide)] at h3
          refine .inl ⟨h3, fun i hi1 hi2 => ?_⟩
          by_cases h' : i = n
          · rw [h', hnote, ht]
          · rw [← turnNoted_positionDone n s i (by omega)]
            exact h4 i (by omega) (by omega)
      · refine .inr ⟨i, by omega, by omega, h5, ?_, fun j hj1 hj2 => ?_⟩
        · rw [← turnNoted_positionDone n s i (by omega)]
          exact h6
        · rw [← turnNoted_positionDone n s j (by omega)]
          exact h7 j (by omega) hj2

/-! ### The command up to the loop -/

/-- The state in which the loop begins: presence was seen and the search-ROM byte was sent. -/
def searchEntry (s : State) : State :=
  clearWork (setPresence true (issued (.reset true :: txSlots [config.cmdSearchRom]) 1 1472
    (prologue (setFound false s))))

/-- The state after the reset slot without presence, before `raise`. -/
def searchAbsent (s : State) : State :=
  setLdisc 0 (setPresence false (issued [.reset false] 1 960 (prologue (setFound false s))))

/-- SEARCH_NEXT by its ends before the loop and the loop (R212, R209, R207). -/
theorem execSearchNext_eq (s : State) :
    execSearchNext s = .next (
      if s.ldisc = 0 then raise .invalidArgument 5 s
      else if s.sampleAt 0 = false then searchFrom 64 (searchEntry s)
      else raise .busAbsent 0 (searchAbsent s)) := by
  have h0 : (prologue (setFound false s)).sampleAt 0 = s.sampleAt 0 := rfl
  have e : writeByteSeq config.cmdSearchRom (setPresence true
      (issued [.reset true] 1 960 (prologue (setFound false s)))) =
      setPresence true (issued (.reset true :: txSlots [config.cmdSearchRom]) 1 1472
        (prologue (setFound false s))) := by
    have c (t : State) : issued (txSlots [config.cmdSearchRom]) 0 512 (setPresence true t) =
        setPresence true (issued (txSlots [config.cmdSearchRom]) 0 512 t) := rfl
    rw [writeByteSeq_eq, c, issued_issued]
    rfl
  unfold execSearchNext searchEntry searchAbsent
  congr 1
  by_cases hl : s.ldisc = 0
  · rw [if_pos hl, if_pos hl]
  · rw [if_neg hl, if_neg hl, resetSlot_eq, h0]
    cases h : s.sampleAt 0 with
    | true => simp only [Bool.not_true, Bool.false_eq_true, reduceIte, resetLength_eq, reduceCtorEq]
    | false => simp only [Bool.not_false, reduceIte, resetLength_eq, e]

end Sys2Proof.Machine
end

