-- ==== Sys2Proof/Laws/Sequencer.lean ====
section
/-! SUPPORT. The tick level, said once: what one pulse does between, and at the end of, slots, and what all the
boundaries of a slot do together. -/

namespace Sys2Proof.Machine

/-! ### One pulse -/

/-- A pulse inside a slot is its next boundary (R140), and the first of a primitive with a boundary before its
end is boundary 0. -/
theorem pulse_within {i : Instr} {p : Prim} {s : State} (n : Nat) (hi : running s = some i)
    (hp : (prims i)[s.stepIx]? = some p) (h : s.tcnt < (p.slotKind s).length s) :
    pulse (n + 1) s = runBoundary p s := by
  simp only [pulse, hi, hp, h, if_true]

theorem usTick_within {i : Instr} {p : Prim} {s : State} (hi : running s = some i)
    (hp : (prims i)[s.stepIx]? = some p) (h : s.tcnt < (p.slotKind s).length s) :
    usTick s = runBoundary p s := pulse_within 2 hi hp h

/-- A pulse at the end of a slot is its end boundary, ends it, and is boundary 0 of what comes next (R140). -/
theorem pulse_end {i : Instr} {p : Prim} {s : State} (n : Nat) (hi : running s = some i)
    (hp : (prims i)[s.stepIx]? = some p) (h : (p.slotKind s).length s ≤ s.tcnt) :
    pulse (n + 1) s = if (endSlot i p (runBoundary p s)).busy then pulse n (endSlot i p (runBoundary p s))
      else endSlot i p (runBoundary p s) := by
  have h2 : ¬ s.tcnt < (p.slotKind s).length s := by omega
  simp only [pulse, hi, hp, h2, if_false]

/-- A pulse does nothing to an engine with no command to run. -/
theorem usTick_none {s : State} (h : running s = none) : usTick s = s := by
  simp [usTick, pulse, h]

/-- At the default parameters nothing happens at the end boundary of a slot but its end. -/
theorem boundaryAction_end (p : Prim) (s : State) (hp : p ≠ .prologue) :
    boundaryAction p ((p.slotKind s).length s) s = s := by
  cases p <;> first | exact absurd rfl hp | rfl

theorem usTicks_add (n m : Nat) (s : State) : usTicks (n + m) s = usTicks m (usTicks n s) := by
  induction n generalizing s with
  | zero => rw [Nat.zero_add, usTicks]
  | succ n ih => rw [Nat.succ_add, usTicks, usTicks, ih]

/-! ### What a boundary leaves alone -/

theorem takePresence_eq (s : State) :
    takePresence s = setPresence (!s.sampleAt 0) (setCrit false (s.skipSamples 1)) := by
  simp only [takePresence, sample_eq]

theorem takeBit_eq (p : Prim) (s : State) :
    p.takeBit s = p.storeBit (s.sampleAt 0) (setCrit false (s.skipSamples 1)) := by
  simp only [Prim.takeBit, sample_eq]

/-- What the sequencer finds its place by, and the length of a slot with it. -/
def samePlace (s t : State) : Prop :=
  t.opc = s.opc ∧ t.arg = s.arg ∧ t.stepIx = s.stepIx ∧ t.byteIx = s.byteIx ∧ t.bitIx = s.bitIx ∧
    t.tcnt = s.tcnt ∧ t.busy = s.busy ∧ t.spuEn = s.spuEn

theorem samePlace.trans {s t u : State} (h : samePlace s t) (k : samePlace t u) : samePlace s u := by
  obtain ⟨a1, a2, a3, a4, a5, a6, a7, a8⟩ := h
  obtain ⟨b1, b2, b3, b4, b5, b6, b7, b8⟩ := k
  exact ⟨b1.trans a1, b2.trans a2, b3.trans a3, b4.trans a4, b5.trans a5, b6.trans a6, b7.trans a7,
    b8.trans a8⟩

theorem atBoundary_eq (b : Nat) (f : State → State) (s : State) : atBoundary b b f s = f s := if_pos rfl

theorem atBoundary_ne {b t : Nat} (f : State → State) (s : State) (h : t ≠ b) : atBoundary b t f s = s :=
  if_neg h

theorem atBoundary_place (b t : Nat) (f : State → State) (s : State) (h : samePlace s (f s)) :
    samePlace s (atBoundary b t f s) := by
  unfold atBoundary
  split
  · exact h
  · exact ⟨rfl, rfl, rfl, rfl, rfl, rfl, rfl, rfl⟩

/-- A boundary never touches what the sequencer finds its place by. -/
theorem boundaryAction_place (p : Prim) (t : Nat) (s : State) : samePlace s (boundaryAction p t s) := by
  have hs (b : Bool) (u : State) : samePlace u (p.storeBit b u) := by
    cases p <;> exact ⟨rfl, rfl, rfl, rfl, rfl, rfl, rfl, rfl⟩
  have htp (u : State) : samePlace u (takePresence u) := by
    rw [takePresence_eq]
    exact ⟨rfl, rfl, rfl, rfl, rfl, rfl, rfl, rfl⟩
  have htb (u : State) : samePlace u (p.takeBit u) := by
    rw [takeBit_eq]
    exact samePlace.trans (t := setCrit false (u.skipSamples 1)) ⟨rfl, rfl, rfl, rfl, rfl, rfl, rfl, rfl⟩
      (hs _ _)
  unfold boundaryAction
  split
  · exact atBoundary_place _ _ _ _ ⟨rfl, rfl, rfl, rfl, rfl, rfl, rfl, rfl⟩
  · exact (atBoundary_place _ _ _ _ ⟨rfl, rfl, rfl, rfl, rfl, rfl, rfl, rfl⟩).trans
      ((atBoundary_place _ _ _ _ ⟨rfl, rfl, rfl, rfl, rfl, rfl, rfl, rfl⟩).trans
        (atBoundary_place _ _ _ _ (htp _)))
  · exact (atBoundary_place _ _ _ _ ⟨rfl, rfl, rfl, rfl, rfl, rfl, rfl, rfl⟩).trans
      ((atBoundary_place _ _ _ _ ⟨rfl, rfl, rfl, rfl, rfl, rfl, rfl, rfl⟩).trans
        (atBoundary_place _ _ _ _ (htb _)))
  · exact (atBoundary_place _ _ _ _ ⟨rfl, rfl, rfl, rfl, rfl, rfl, rfl, rfl⟩).trans
      ((atBoundary_place _ _ _ _ ⟨rfl, rfl, rfl, rfl, rfl, rfl, rfl, rfl⟩).trans
        (atBoundary_place _ _ _ _ ⟨rfl, rfl, rfl, rfl, rfl, rfl, rfl, rfl⟩))

/-- A boundary does not look at TCNT: the pulse passes it the number. -/
theorem boundaryAction_setTcnt (p : Prim) (t k : Nat) (s : State) :
    boundaryAction p t (setTcnt k s) = setTcnt k (boundaryAction p t s) := by
  have hk : p.slotKind (setTcnt k s) = p.slotKind s := by cases p <;> rfl
  have hs (b : Bool) (u : State) : p.storeBit b (setTcnt k u) = setTcnt k (p.storeBit b u) := by
    cases p <;> rfl
  have ha (b : Nat) (f : State → State) (u : State) (h : f (setTcnt k u) = setTcnt k (f u)) :
      atBoundary b t f (setTcnt k u) = setTcnt k (atBoundary b t f u) := by
    unfold atBoundary
    split
    · exact h
    · rfl
  have htp (u : State) : takePresence (setTcnt k u) = setTcnt k (takePresence u) := by
    rw [takePresence_eq, takePresence_eq]
    rfl
  have htb (u : State) : p.takeBit (setTcnt k u) = setTcnt k (p.takeBit u) := by
    rw [takeBit_eq, takeBit_eq]
    exact hs _ (setCrit false (u.skipSamples 1))
  unfold boundaryAction
  rw [hk]
  split
  · exact ha _ _ _ rfl
  · rw [ha 0 (setOwOut false) s rfl, ha config.tRstl (fun u => setOwOut true (setCrit true u)) _ rfl,
      ha _ takePresence _ (htp _)]
  · rw [ha 0 (fun u => setOwOut false (setCrit true u)) s rfl, ha config.tRdLow (setOwOut true) _ rfl,
      ha _ p.takeBit _ (htb _)]
  · rw [ha 0 (fun u => setOwOut false (setCrit true u)) s rfl, ha config.tWrLow (setOwOut _) _ rfl,
      ha _ (fun u => setOwOut true (setCrit false u)) _ rfl]

/-! ### A run of boundaries -/

/-- The boundaries t, t + 1, ..., t + n − 1 of a primitive. -/
def boundariesFrom (p : Prim) : Nat → Nat → State → State
  | 0, _, s => s
  | n + 1, t, s => boundariesFrom p n (t + 1) (boundaryAction p t s)

theorem boundariesFrom_add (p : Prim) (a b t : Nat) (s : State) :
    boundariesFrom p (a + b) t s = boundariesFrom p b (t + a) (boundariesFrom p a t s) := by
  induction a generalizing t s with
  | zero => rw [Nat.zero_add, boundariesFrom, Nat.add_zero]
  | succ a ih =>
    have e : t + (a + 1) = t + 1 + a := by omega
    rw [Nat.succ_add, boundariesFrom, boundariesFrom, ih, e]

theorem boundariesFrom_one (p : Prim) (t : Nat) (s : State) :
    boundariesFrom p 1 t s = boundaryAction p t s := rfl

/-- `afterBoundary` is the run from boundary 0. -/
theorem afterBoundary_eq (p : Prim) (n : Nat) (s : State) :
    afterBoundary p n s = boundariesFrom p (n + 1) 0 s := by
  induction n with
  | zero => rfl
  | succ n ih => rw [afterBoundary, ih, boundariesFrom_add p (n + 1) 1, Nat.zero_add, boundariesFrom_one]

/-- Boundaries at which nothing happens. -/
theorem boundariesFrom_quiet (p : Prim) (n t : Nat) (s : State)
    (h : ∀ k, k < n → boundaryAction p (t + k) s = s) : boundariesFrom p n t s = s := by
  induction n generalizing t with
  | zero => rfl
  | succ n ih =>
    have h0 : boundaryAction p t s = s := h 0 (Nat.succ_pos n)
    rw [boundariesFrom, h0]
    refine ih (t + 1) fun k hk => ?_
    have e : t + 1 + k = t + (k + 1) := by omega
    rw [e]
    exact h (k + 1) (Nat.succ_lt_succ hk)

theorem boundariesFrom_place (p : Prim) (n t : Nat) (s : State) : samePlace s (boundariesFrom p n t s) := by
  induction n generalizing t s with
  | zero => exact ⟨rfl, rfl, rfl, rfl, rfl, rfl, rfl, rfl⟩
  | succ n ih => exact (boundaryAction_place p t s).trans (ih (t + 1) _)

/-- The length of a primitive's slot: it depends on the primitive and CFG.SPU_EN only. -/
theorem slotLength_congr (p : Prim) (s t : State) (h : t.spuEn = s.spuEn) :
    (p.slotKind t).length t = (p.slotKind s).length s := by
  cases p <;> simp [Prim.slotKind, SlotKind.length, prologueLength, h]

/-- n pulses inside a slot are its next n boundaries. -/
theorem usTicks_within {i : Instr} {p : Prim} (n : Nat) (s : State) (hi : running s = some i)
    (hp : (prims i)[s.stepIx]? = some p)
    (h : s.tcnt + n ≤ (p.slotKind s).length s) :
    usTicks n s = setTcnt (s.tcnt + n) (boundariesFrom p n s.tcnt s) := by
  induction n generalizing s with
  | zero => rfl
  | succ n ih =>
    obtain ⟨b1, b2, b3, -, -, -, -, b8⟩ := boundaryAction_place p s.tcnt s
    have e : usTick s = setTcnt (s.tcnt + 1) (boundaryAction p s.tcnt s) :=
      usTick_within hi hp (by omega)
    have hi' : running (setTcnt (s.tcnt + 1) (boundaryAction p s.tcnt s)) = some i := by
      rw [← hi]
      simp only [running, setTcnt_opc, setTcnt_arg, b1, b2]
    have hp' : (prims i)[(setTcnt (s.tcnt + 1) (boundaryAction p s.tcnt s)).stepIx]? = some p := by
      rw [setTcnt_stepIx, b3, hp]
    have hl := slotLength_congr p s (setTcnt (s.tcnt + 1) (boundaryAction p s.tcnt s)) b8
    have hb (m t k : Nat) (u : State) :
        boundariesFrom p m t (setTcnt k u) = setTcnt k (boundariesFrom p m t u) := by
      induction m generalizing t u with
      | zero => rfl
      | succ m ihm => rw [boundariesFrom, boundaryAction_setTcnt, ihm, boundariesFrom]
    have ht : (setTcnt (s.tcnt + 1) (boundaryAction p s.tcnt s)).tcnt = s.tcnt + 1 := rfl
    have e2 : s.tcnt + (n + 1) = s.tcnt + 1 + n := by omega
    rw [usTicks, e, ih _ hi' hp' (by rw [hl, ht]; omega), ht, hb, boundariesFrom, e2]
    rfl

/-! ### Whole slots -/

/-- All boundaries of a reset slot (R142). -/
theorem boundariesFrom_reset (s : State) :
    boundariesFrom .reset 960 0 s =
      setPresence (!s.sampleAt 0) (setOwOut true (setCrit false (s.skipSamples 1))) := by
  have q (n t : Nat) (u : State) (h : ∀ k, k < n → t + k ≠ 0 ∧ t + k ≠ 480 ∧ t + k ≠ 540) :
      boundariesFrom .reset n t u = u := by
    refine boundariesFrom_quiet _ n t u fun k hk => ?_
    obtain ⟨h1, h2, h3⟩ := h k hk
    generalize t + k = m at h1 h2 h3 ⊢
    simp only [boundaryAction, Prim.slotKind, config, atBoundary_ne _ _ h1, atBoundary_ne _ _ h2,
      atBoundary_ne _ _ h3]
  have e : 960 = 1 + (479 + (1 + (59 + (1 + 419)))) := rfl
  rw [e, boundariesFrom_add, boundariesFrom_one, boundariesFrom_add, q 479 _ _ (by omega),
    boundariesFrom_add, boundariesFrom_one, boundariesFrom_add, q 59 _ _ (by omega), boundariesFrom_add,
    boundariesFrom_one, q 419 _ _ (by omega)]
  simp only [boundaryAction, Prim.slotKind, config, atBoundary, takePresence_eq]
  rfl

/-- All boundaries of a read slot (R143): the level sampled at boundary 8 goes where the primitive puts it. -/
theorem boundariesFrom_read (p : Prim) (hp : ∀ s, p.slotKind s = .read) (s : State) :
    boundariesFrom p 48 0 s =
      p.storeBit (s.sampleAt 0) (setOwOut true (setCrit false (s.skipSamples 1))) := by
  have q (n t : Nat) (u : State) (h : ∀ k, k < n → t + k ≠ 0 ∧ t + k ≠ 2 ∧ t + k ≠ 8) :
      boundariesFrom p n t u = u := by
    refine boundariesFrom_quiet _ n t u fun k hk => ?_
    obtain ⟨h1, h2, h3⟩ := h k hk
    generalize t + k = m at h1 h2 h3 ⊢
    simp only [boundaryAction, hp, config, atBoundary_ne _ _ h1, atBoundary_ne _ _ h2,
      atBoundary_ne _ _ h3]
  have e : 48 = 1 + (1 + (1 + (5 + (1 + 39)))) := rfl
  rw [e, boundariesFrom_add, boundariesFrom_one, boundariesFrom_add, q 1 _ _ (by omega),
    boundariesFrom_add, boundariesFrom_one, boundariesFrom_add, q 5 _ _ (by omega), boundariesFrom_add,
    boundariesFrom_one, q 39 _ _ (by omega)]
  simp only [boundaryAction, hp, config, atBoundary, takeBit_eq]
  rfl

/-- All boundaries of a write slot (R144): the line is released again and nothing else has changed. -/
theorem boundariesFrom_write (p : Prim) (b : Bool) (s : State)
    (hp : ∀ o c, p.slotKind (setOwOut o (setCrit c s)) = .write b) (hs : p.slotKind s = .write b) :
    boundariesFrom p 64 0 s = setOwOut true (setCrit false s) := by
  have q (n t : Nat) (o c : Bool) (h : ∀ k, k < n → t + k ≠ 0 ∧ t + k ≠ 2 ∧ t + k ≠ 62) :
      boundariesFrom p n t (setOwOut o (setCrit c s)) = setOwOut o (setCrit c s) := by
    refine boundariesFrom_quiet _ n t _ fun k hk => ?_
    obtain ⟨h1, h2, h3⟩ := h k hk
    generalize t + k = m at h1 h2 h3 ⊢
    simp only [boundaryAction, hp, config, atBoundary_ne _ _ h1, atBoundary_ne _ _ h2,
      atBoundary_ne _ _ h3]
  have a0 : boundaryAction p 0 s = setOwOut false (setCrit true s) := by
    simp only [boundaryAction, hs]
    rfl
  have a1 : boundaryAction p 2 (setOwOut false (setCrit true s)) = setOwOut b (setCrit true s) := by
    simp only [boundaryAction, hp, config]
    rfl
  have a2 : boundaryAction p 62 (setOwOut b (setCrit true s)) = setOwOut true (setCrit false s) := by
    simp only [boundaryAction, hp, config]
    rfl
  have e : 64 = 1 + (1 + (1 + (59 + 2))) := rfl
  have e2 (t : Nat) (u : State) : boundariesFrom p 2 t u = boundariesFrom p 1 (t + 1) (boundaryAction p t u) :=
    rfl
  rw [e, boundariesFrom_add, boundariesFrom_one, a0, boundariesFrom_add, q 1 _ _ _ (by omega),
    boundariesFrom_add, boundariesFrom_one, a1, boundariesFrom_add, q 59 _ _ _ (by omega), e2, a2, q 1 _ _ _ (by omega)]

end Sys2Proof.Machine
end

