-- ==== Sys2Proof/Tests/Slice0.lean ====
section
/-! SUPPORT. Tests: well-formedness, decoding from words written out from 30_encoding.md R103, one-step
vectors of 95_test_vectors.md, and for each statement with hypotheses a state and operands that meet them. -/

namespace Sys2Proof.Tests

open Sys2Proof Sys2Proof.Machine

/-! ### Well-formedness: an ill-formed term for each check (30_encoding.md R101) -/

theorem test_wf_refuses_bad_counts :
    Instr.wf (.readBytes 0) = false ∧ Instr.wf (.readBytes 10) = false ∧
    Instr.wf (.writeBytes 0) = false ∧ Instr.wf (.writeBytes 10) = false ∧
    Instr.wf (.crcBuf 0) = false ∧ Instr.wf (.crcBuf 10) = false := by decide

theorem test_wf_refuses_bad_resolutions :
    Instr.wf (.setRes 8) = false ∧ Instr.wf (.setRes 13) = false := by decide

theorem test_wf_admits_the_bounds :
    Instr.wf (.readBytes 1) = true ∧ Instr.wf (.readBytes 9) = true ∧ Instr.wf (.writeBytes 9) = true ∧
    Instr.wf (.crcBuf 1) = true ∧ Instr.wf (.setRes 9) = true ∧ Instr.wf (.setRes 12) = true := by decide

/-! ### Decoding: OPC in bits 7:0, ARG in bits 15:8 (R100), the opcodes of R103 -/

theorem test_decode_transport :
    decodeTableWord 32 0b00000000000000000000000000000000 = some .nop ∧
    decodeTableWord 32 0b00000000000000000000000000000001 = some .reset ∧
    decodeTableWord 32 0b00000000000000000000000000000010 = some .readBit ∧
    decodeTableWord 32 0b00000000000000000000000000000011 = some (.writeBit false) ∧
    decodeTableWord 32 0b00000000000000000000000100000011 = some (.writeBit true) ∧
    decodeTableWord 32 0b00000000000000000000000000000100 = some .readByte ∧
    decodeTableWord 32 0b00000000000000000100010000000101 = some (.writeByte 0x44) ∧
    decodeTableWord 32 0b00000000000000000000001000000110 = some (.readBytes 2) ∧
    decodeTableWord 32 0b00000000000000000000001100000111 = some (.writeBytes 3) := by decide

theorem test_decode_crc :
    decodeTableWord 32 0b00000000000000000000000000010000 = some .crcClr ∧
    decodeTableWord 32 0b00000000000000000010100000010001 = some (.crcUpd 0x28) ∧
    decodeTableWord 32 0b00000000000000000000100000010010 = some (.crcBuf 8) ∧
    decodeTableWord 32 0b00000000000000000000000100010011 = some (.crcRom true) := by decide

theorem test_decode_search_and_addressing :
    decodeTableWord 32 0b00000000000000000000000000100000 = some .searchInit ∧
    decodeTableWord 32 0b00000000000000000000000000100001 = some .searchNext ∧
    decodeTableWord 32 0b00000000000000000000000000100010 = some .romTake ∧
    decodeTableWord 32 0b00000000000000000000000000110000 = some .select ∧
    decodeTableWord 32 0b00000000000000000000000000110001 = some .skip := by decide

theorem test_decode_ds18x20 :
    decodeTableWord 32 0b00000000000000000000000101000000 = some (.convert true) ∧
    decodeTableWord 32 0b00000000000000000000000001000001 = some .readSpad ∧
    decodeTableWord 32 0b00000000000000000000000001000010 = some .writeSpad ∧
    decodeTableWord 32 0b00000000000000000000000001000011 = some .decodeTemp ∧
    decodeTableWord 32 0b00000000000000000000000001000100 = some .getRes ∧
    decodeTableWord 32 0b00000000000000000000101001000101 = some (.setRes 10) ∧
    decodeTableWord 32 0b00000000000000000000000001000110 = some (.powerMode false) := by decide

/-- V-ENC-2 to V-ENC-21: each step of R104 at its boundary values, and the order of the steps. -/
theorem test_decode_rejects :
    decode 0x00010001 = .error .highBits ∧ decode 0x80000000 = .error .highBits ∧
    decode 0x000100FF = .error .highBits ∧ decode 0x000000FF = .error .undefinedOpcode ∧
    decode 0x00000008 = .error .undefinedOpcode ∧ decode 0x00000047 = .error .undefinedOpcode ∧
    decode 0x00000101 = .error .reservedArg ∧ decode 0x00000203 = .error .reservedArg ∧
    decode 0x00000303 = .error .reservedArg ∧ decode 0x00000213 = .error .reservedArg ∧
    decode 0x00000006 = .error .badCount ∧ decode 0x00000A06 = .error .badCount ∧
    decode 0x0000FF12 = .error .badCount ∧ decode 0x00000845 = .error .badResolution ∧
    decode 0x00000D45 = .error .badResolution := by decide

/-! ### Small states -/

/-- Reset, with the coming answers of the bus. -/
def withLine (l : List Bool) : State := { State.reset with line := l }

/-- A property of the next state. -/
def after (o : Result) (p : State → Bool) : Bool :=
  match o with
  | .next t => p t
  | .fault _ => false
  | .refused _ => false

/-- The next state; reset where there is none. -/
def nextOf (o : Result) : State :=
  match o with
  | .next t => t
  | .fault _ => State.reset
  | .refused _ => State.reset

/-- BUF with the first bytes given, the rest 0. -/
def bufOf (v : List Byte) : Buf := Vector.ofFn fun k => v.getD k.val 0

/-- A ROM from its bytes. -/
def romOf (v : List Byte) : Rom := Vector.ofFn fun k => v.getD k.val 0

/-- A state with a family byte and a scratchpad. -/
def withSpad (family : Byte) (v : List Byte) : State :=
  { State.reset with rom := romOf [family], buf := bufOf v }

/-- A state whose command is running. -/
def busyState : State := { State.reset with busy := true }

/-! ### One-step vectors (95_test_vectors.md) -/

/-- V-BIT-1 and V-BIT-9. -/
theorem test_reset_presence :
    after (exec .reset (withLine [false]))
      (fun t => t.presence && decide (t.cause = .ok) && decide (t.ticks = 960) &&
        decide (t.trace = [.reset true])) = true := by decide

theorem test_reset_no_presence :
    after (exec .reset (withLine [true]))
      (fun t => !t.presence && decide (t.cause = .busAbsent) && decide (t.ticks = 960)) = true := by decide

/-- V-BIT-4: SPU_EN = 1 and SPUL = 1 before. -/
theorem test_reset_drops_the_pull_up :
    after (exec .reset { State.reset with line := [false], spuEn := true, spul := true })
      (fun t => !t.spul && decide (t.ticks = 961)) = true := by decide

theorem test_readBit_idle_bus :
    after (exec .readBit (withLine [true])) (fun t => decide (t.data = 0x01) && decide (t.ticks = 48)) =
      true := by decide

theorem test_writeBit_trace :
    after (exec (.writeBit true) State.reset)
      (fun t => decide (t.trace = [.write true]) && decide (t.ticks = 64)) = true := by decide

/-- V-BIT-6. -/
theorem test_readByte :
    after (exec .readByte (withLine [true, false, false, false, true, false, false, true]))
      (fun t => decide (t.data = 0x91) && decide (t.ticks = 384)) = true := by decide

/-- V-BIT-5. -/
theorem test_writeByte :
    after (exec (.writeByte 0x44) State.reset)
      (fun t => decide (t.trace = [.write false, .write false, .write true, .write false, .write false,
        .write false, .write true, .write false]) && decide (t.ticks = 512)) = true := by decide

/-- V-BIT-7, with other bytes: 0x80, then 0x01; byte 2 keeps its value. -/
theorem test_readBytes :
    after (exec (.readBytes 2)
        { State.reset with buf := bufOf [0x11, 0x22, 0x33],
                           line := List.replicate 7 false ++ [true, true] ++ List.replicate 7 false })
      (fun t => decide (t.buf = bufOf [0x80, 0x01, 0x33])) = true := by decide

/-- R153's example: the bits of 0x4B come first. -/
theorem test_writeBytes :
    after (exec (.writeBytes 3) (withSpad 0 [0x4B, 0x46, 0x7F]))
      (fun t => decide (t.trace.length = 24) &&
        decide (t.trace.take 8 = [.write true, .write true, .write false, .write true, .write false,
          .write false, .write true, .write false])) = true := by decide

/-- V-CRC-14. -/
theorem test_crcClr :
    after (exec .crcClr { State.reset with crc := 0x5A }) (fun t => decide (t.crc = 0) && t.crcz) = true := by
  decide

/-- V-CRC-3 and V-CRC-15. -/
theorem test_crcUpd :
    after (exec (.crcUpd 0x01) State.reset) (fun t => decide (t.crc = 0x5E)) = true ∧
    after (exec (.crcUpd 0x28) State.reset) (fun t => decide (t.crc = 0xE1)) = true := by decide

/-- R187's example, from a CRC that is not 0. -/
theorem test_crcBuf :
    after (exec (.crcBuf 7) { withSpad 0 [0x28, 0x01, 0, 0, 0, 0, 0, 0x29] with crc := 0x77 })
      (fun t => decide (t.crc = 0x29)) = true ∧
    after (exec (.crcBuf 8) { withSpad 0 [0x28, 0x01, 0, 0, 0, 0, 0, 0x29] with crc := 0x77 })
      (fun t => decide (t.crc = 0)) = true := by decide +kernel

/-- R188's example. -/
theorem test_crcRom :
    after (exec (.crcRom true) { State.reset with srom := romOf [0x10, 0x01, 0, 0, 0, 0, 0, 0xCC] })
      (fun t => decide (t.crc = 0)) = true ∧
    after (exec (.crcRom false) { State.reset with rom := romOf [0x10, 0x01, 0, 0, 0, 0, 0, 0xCD] })
      (fun t => decide (t.crc ≠ 0)) = true := by decide +kernel

theorem test_searchInit :
    after (exec .searchInit { State.reset with ldisc := 0, srom := romOf [1], found := true })
      (fun t => decide (t.ldisc = 65) && decide (t.srom = romOf []) && !t.found) = true := by decide

theorem test_romTake :
    after (exec .romTake { State.reset with srom := romOf [0x28, 1, 0, 0, 0, 0, 0, 0x29] })
      (fun t => decide (t.rom = romOf [0x28, 1, 0, 0, 0, 0, 0, 0x29])) = true := by decide

/-- V-ADR-3: no device. -/
theorem test_select_absent :
    after (exec .select (withLine [true]))
      (fun t => decide (t.trace = [.reset false]) && decide (t.cause = .busAbsent)) = true := by decide

/-- V-ADR-2. -/
theorem test_skip :
    after (exec .skip (withLine [false]))
      (fun t => decide (t.trace = [.reset true, .write false, .write false, .write true, .write true,
        .write false, .write false, .write true, .write true]) && decide (t.ticks = 1472)) = true := by decide

/-- R241 and R263: the duration of a broadcast, and SPUL at its end. -/
theorem test_convert :
    after (exec (.convert true) { State.reset with line := [false], spuEn := true })
      (fun t => t.spul && decide (t.ticks = 1985) && decide (t.trace.length = 17)) = true := by decide

/-- V-SPAD-4: the line stuck low. -/
theorem test_readSpad_stuck_low :
    after (exec .readSpad { State.reset with line := List.replicate 73 false, tvalid := true })
      (fun t => t.presence && decide (t.cause = .ok) && decide (t.crc = 0) && !t.tvalid &&
        decide (t.ticks = 9536)) = true := by decide +kernel

/-- V-SPAD-3: the addressed device is absent, another is there. -/
theorem test_readSpad_all_ones :
    after (exec .readSpad (withLine (false :: List.replicate 72 true)))
      (fun t => decide (t.cause = .checksumFault) && decide (t.crc = 0x63)) = true := by decide +kernel

/-- V-WSP-1: the last byte sent is BUF[4] = 0x3F. -/
theorem test_writeSpad :
    after (exec .writeSpad { withSpad 0x28 [0, 0, 0x4B, 0x46, 0x3F] with line := [false] })
      (fun t => decide (t.ticks = 7616) &&
        decide (t.trace.drop 97 = [.write true, .write true, .write true, .write true, .write true,
          .write true, .write false, .write false])) = true := by decide +kernel

/-- V-SRC-6 and V-SRC-7. -/
theorem test_decode_extended :
    after (exec .decodeTemp (withSpad 0x28 [0x91, 0x01]))
      (fun t => decide (t.tnum.toInt = 401) && decide (t.tden = 16) && decide (t.tc100.toInt = 2506) &&
        t.tvalid) = true ∧
    after (exec .decodeTemp (withSpad 0x22 [0x5E, 0xFF]))
      (fun t => decide (t.tnum.toInt = -162) && decide (t.tc100.toInt = -1013)) = true := by decide

/-- V-SRC-8 and V-DEC-23. -/
theorem test_decode_legacy :
    after (exec .decodeTemp (withSpad 0x10 [0xAA, 0x00, 0, 0, 0, 0, 0x0C, 0x10]))
      (fun t => decide (t.tnum.toInt = 5440) && decide (t.tden = 64) && decide (t.tc100.toInt = 8500)) =
      true ∧
    after (exec .decodeTemp (withSpad 0x10 [0xFF, 0x01, 0, 0, 0, 0, 0x0C, 0x10]))
      (fun t => decide (t.tnum.toInt = -64) && decide (t.tc100.toInt = -100)) = true := by decide

/-- R258's examples. -/
theorem test_getRes :
    after (exec .getRes (withSpad 0 [0, 0, 0, 0, 0x3F])) (fun t => decide (t.res = 10)) = true ∧
    after (exec .getRes (withSpad 0 [0, 0, 0, 0, 0x00])) (fun t => decide (t.res = 9)) = true := by decide

/-- R259's example. -/
theorem test_setRes :
    after (exec (.setRes 10) { withSpad 0 [0, 0, 0x4B, 0x46, 0] with line := [false] })
      (fun t => decide (byteAt t.buf 4 = 0x3F) && decide (t.ticks = 7616)) = true := by decide

/-- R262: the bit sampled, and the duration of a broadcast. -/
theorem test_powerMode :
    after (exec (.powerMode true) { State.reset with line := [false, false], pmode := true })
      (fun t => !t.pmode && decide (t.ticks = 2032)) = true := by decide

/-- R280's example. -/
theorem test_nop :
    after (exec .nop { State.reset with cause := .checksumFault })
      (fun t => decide (t = State.reset)) = true := by decide

/-! ### Host port -/

/-- R52, R281: the first step after reset runs the command that stands in the schedule. -/
theorem test_step_runs_the_command :
    after (step (State.reset.withFetchWord 32 0x00002811)) (fun t => decide (t.crc = 0xE1) && !t.busy) =
      true := by decide

/-- R72, R73: BUF[8] is written in its low byte and read back with zeros. -/
theorem test_write_then_read_buf :
    after (hostAccess (.write 0x28 0x12345678) State.reset)
      (fun s => after (hostAccess (.read 0x28) s) (fun t => decide (t.hRdata = some 0x78))) = true := by decide

/-- R26: a read in a cycle of `rst` shows the register before the edge. -/
theorem test_read_in_the_cycle_of_rst :
    after (step { State.reset with spuEn := true, inputs := [.clk ⟨true, false, some (.read 0x03)⟩] })
      (fun t => decide (t.hRdata = some 1) && !t.spuEn) = true := by decide

/-- R161 holds of the parameters. -/
theorem test_times_ok : config.timesOk = true := by decide

/-! ### Host programs (R112, R120, R121) and hazards (R56) -/

/-- The value of a program that has ended, in the turns given. -/
def resultOf {α : Type} (cs : List Turn) (p : Prog α) (s : State) : Option α :=
  match p.run cs s with
  | .next (.done a, _) => some a
  | .next (.write _ _ _, _) => none
  | .next (.read _ _, _) => none
  | .next (.wait _, _) => none
  | .fault _ => none
  | .refused _ => none

/-- The state of a run. -/
def stateOf {α : Type} (cs : List Turn) (p : Prog α) (s : State) : State :=
  match p.run cs s with
  | .next (_, t) => t
  | .fault _ => State.reset
  | .refused _ => State.reset

theorem test_transferSizes :
    transferSizes 20 = [9, 9, 2] ∧ transferSizes 9 = [9] ∧ transferSizes 0 = [] ∧
    transferSizes 300 = List.replicate 33 9 ++ [3] := by decide

/-- Every LD gives its result. -/
theorem test_lines :
    resultOf (List.replicate 5 .slot)
      (linesProg [.st 0x20 0x15A, .ld 0x20, .cmd .nop, .ld 0x03]) State.reset = some [0x5A, 0] := by decide

/-- At clk level the line after a command waits until BUSY = 0: WRITE_BIT takes the write, 65 pulses, and one more
look at STATUS. -/
theorem test_wait_at_clk_level :
    (stateOf (List.replicate 67 (.clk true)) (linesProg [.cmd (.writeBit true), .st 0x03 1])
      State.reset).spuEn = false ∧
    (stateOf (List.replicate 68 (.clk true)) (linesProg [.cmd (.writeBit true), .st 0x03 1])
      State.reset).spuEn = true := by decide +kernel

/-- R120: eleven bytes are two commands. -/
theorem test_writeBytes_split :
    (stateOf (List.replicate 30 .slot) (writeBytesCall (List.replicate 11 0xFF)) State.reset).trace =
      List.replicate 88 (.write true) := by decide +kernel

theorem test_hazards_of_meaningless_reads :
    hazards (.read 0x18) State.reset = [.romNotFound] ∧
    hazards (.read 0x1F) { State.reset with found := true } = [] ∧
    hazards (.read 0x08) State.reset = [.readingNotValid] ∧
    hazards (.read 0x0A) { State.reset with tvalid := true } = [] ∧
    hazards (.read 0x28) { State.reset with cause := .checksumFault } = [.bufferNotValid] ∧
    hazards (.read 0x28) State.reset = [] ∧
    hazards (.write 0x00 (encode .romTake)) State.reset = [.romNotFound] ∧
    hazards (.write 0x00 (encode .searchNext)) State.reset = [] := by decide

/-! ### Witnesses: the hypotheses of the statements are met -/

/-- WRITE_BIT 1 written at a clk edge, n cycles with a pulse after it, and one more input. -/
def tickRunWith (n : Nat) (last : Input) : State :=
  { State.reset with
    inputs := .clk ⟨false, true, some (.write 0x00 0x103)⟩ ::
      (List.replicate n (.clk ⟨false, true, none⟩) ++ [last]) }

theorem witness_decodeAfterEncode : Instr.wf (.readBytes 9) = true ∧ Instr.wf (.setRes 9) = true := by decide

theorem witness_decodedWord :
    decode 0x00000906 = .ok (.readBytes 9) ∧ decode 0x00000945 = .ok (.setRes 9) := by decide

theorem witness_matchAndMask :
    ((opcodeMap.filter fun r => r.selects 0x00000103).map OpRow.mnemonic) = ["WRITE_BIT"] ∧
    ((opcodeMap.filter fun r => r.selects 0x00000203).map OpRow.mnemonic) = [] := by decide

/-- Each clause of the decoder's statement at its boundary values. -/
theorem witness_decoderRejects :
    (0x00010000#32).toNat / 2 ^ 16 ≠ 0 ∧ (0x0000FFFF#32).toNat / 2 ^ 16 = 0 ∧
    decode 0x00000145 = .error .badResolution ∧ decode 0x00000945 = .ok (.setRes 9) ∧
    decode 0x00000C45 = .ok (.setRes 12) ∧ decode 0x00000106 = .ok (.readBytes 1) ∧
    decode 0x00000906 = .ok (.readBytes 9) ∧ decode 0x00000146 = .ok (.powerMode true) ∧
    decode 0x00000246 = .error .reservedArg ∧ decode 0x0000FF05 = .ok (.writeByte 0xFF) ∧
    decode 0x00000100 = .error .reservedArg := by decide

theorem witness_stepRuns :
    (State.reset.withFetchWord 32 0x21).inputs = [.access (.write 0x00 0x21)] ∧
    (State.reset.withFetchWord 32 0x21).busy = false ∧ decode (BitVec.ofNat 32 0x21) = .ok .searchNext := by
  decide

theorem witness_everyCommandEndsIdle : State.reset.owOut = true ∧ State.reset.crit = false := by decide

theorem witness_invalidArgument :
    State.reset.busy = false ∧ State.reset.idleOk = true ∧ decode 0x000000FF = .error .undefinedOpcode ∧
    ({ State.reset with ldisc := 0 } : State).idleOk = true ∧
    (withSpad 0x10 []).idleOk = true ∧ byteAt (withSpad 0x10 []).rom 0 = 0x10 ∧
    byteAt (withSpad 0x10 []).buf 7 = 0 := by decide

theorem witness_cause :
    after (exec .searchNext { State.reset with ldisc := 0 })
      (fun t => decide (t.cause = .invalidArgument) && decide (t.info = 5)) = true ∧
    after (exec .decodeTemp (withSpad 0x10 []))
      (fun t => decide (t.cause = .invalidArgument) && decide (t.info = 6)) = true := by decide

theorem witness_pullUp :
    Instr.wf (.setRes 9) = true ∧
    after (exec (.setRes 9) { State.reset with line := [false], spuEn := true }) (fun t => t.spul) = true ∧
    after (exec (.setRes 9) { State.reset with line := [true], spuEn := true, spul := true })
      (fun t => !t.spul) = true := by decide

theorem witness_noPresence :
    isComposite .searchNext = true ∧ State.reset.ldisc ≠ 0 ∧ (withLine [true]).sampleAt 0 = true ∧
    isComposite (.setRes 12) = true ∧ Instr.wf (.setRes 12) = true := by decide

theorem witness_writesWhileBusy :
    ({ busyState with inputs := [.access (.write 0x03 1)] } : State).busy = true ∧
    after (step { busyState with inputs := [.access (.write 0x03 1)] }) (fun t => !t.spuEn && t.busy) = true ∧
    after (step { busyState with inputs := [.clk ⟨false, false, some (.write 0x00 0x20)⟩] })
      (fun t => t.busy) = true := by decide

/-- The addresses at the bounds of each clause: 0x03, 0x10, 0x17, 0x18, 0x20, 0x28, 0x29. -/
theorem witness_hostWrite :
    after (hostAccess (.write 0x03 0xFFFFFFFF) State.reset) (fun t => t.spuEn) = true ∧
    after (hostAccess (.write 0x10 0x5A) State.reset) (fun t => decide (byteAt t.rom 0 = 0x5A)) = true ∧
    after (hostAccess (.write 0x17 0x5A) State.reset) (fun t => decide (byteAt t.rom 7 = 0x5A)) = true ∧
    after (hostAccess (.write 0x18 0x5A) State.reset) (fun t => decide (t = State.reset)) = true ∧
    after (hostAccess (.write 0x20 0x5A) State.reset) (fun t => decide (byteAt t.buf 0 = 0x5A)) = true ∧
    after (hostAccess (.write 0x29 0x5A) State.reset) (fun t => decide (t = State.reset)) = true := by decide

/-- The addresses at the bounds of the clauses of a read. -/
theorem witness_hostRead :
    readReg 0x01 State.reset = 0x20 ∧ readReg 0x06 State.reset = 65 ∧ readReg 0x0A State.reset = 0 ∧
    readReg 0x0B State.reset = 0 ∧ readReg 0x0F State.reset = 0 ∧
    readReg 0x10 (withSpad 0x28 []) = 0x28 ∧
    readReg 0x1F { State.reset with srom := romOf [0, 0, 0, 0, 0, 0, 0, 9] } = 9 ∧
    readReg 0x28 (withSpad 0 [0, 0, 0, 0, 0, 0, 0, 0, 0x70]) = 0x70 ∧ readReg 0x29 State.reset = 0 ∧
    readReg 0x08 { State.reset with tnum := -162 } = 0xFFFFFF5E := by decide

theorem witness_busyRead :
    busyState.busy = true ∧
    after (hostAccess (.read 0x01) busyState) (fun t => decide (t.hRdata = some 0x21)) = true ∧
    after (step { busyState with inputs := [.clk ⟨false, true, some (.read 0x01)⟩] })
      (fun t => decide (t.hRdata = some 0x21)) = true := by decide

/-- A read of STATUS at a clk edge with BUSY = 0, and the cycle in which BUSY falls: STATUS of before (log 17). -/
theorem witness_readAtClk :
    after (step { State.reset with inputs := [.clk ⟨false, true, some (.read 0x06)⟩] })
      (fun t => decide (t.hRdata = some 65)) = true ∧
    after (core.run 65 (tickRunWith 64 (.clk ⟨false, true, some (.read 0x01)⟩))) (fun t => t.busy) = true ∧
    after (core.run 66 (tickRunWith 64 (.clk ⟨false, true, some (.read 0x01)⟩)))
      (fun t => !t.busy && decide (t.hRdata = some 0x21)) = true := by decide +kernel

theorem witness_resetEdge :
    after (step { busyState with owOut := false, inputs := [.clk ⟨true, true, some (.write 0x03 1)⟩] })
      (fun t => t.owOut && !t.busy && !t.spuEn) = true := by decide

/-- A RESET at its boundary 0: the invariant holds of a running command too. -/
def runningReset : State :=
  { State.reset with busy := true, opc := 0x01, stepIx := 1, tcnt := 1, owOut := false }

theorem witness_invariant : State.reset.ok = true ∧ runningReset.ok = true := by decide

theorem witness_invariant_rejects :
    ({ runningReset with spul := true } : State).ok = false ∧
    ({ State.reset with ldisc := 66 } : State).ok = false := by decide

theorem witness_counts :
    1 ≤ (1#8).toNat ∧ (9#8).toNat ≤ 9 ∧ (0#8).toNat = 0 ∧ 9 < (10#8).toNat ∧
    after (exec (.readBytes 0) State.reset) (fun t => decide (t.info = 3)) = true ∧
    after (exec (.crcBuf 10) State.reset) (fun t => decide (t.info = 3)) = true := by decide

theorem witness_waveforms :
    SlotKind.reset.levelsAt 479 = (false, false) ∧ SlotKind.reset.levelsAt 480 = (true, true) ∧
    SlotKind.reset.levelsAt 540 = (true, false) ∧ SlotKind.read.levelsAt 1 = (false, true) ∧
    SlotKind.read.levelsAt 2 = (true, true) ∧ SlotKind.read.levelsAt 8 = (true, false) ∧
    (SlotKind.write false).levelsAt 61 = (false, true) ∧ (SlotKind.write true).levelsAt 62 = (true, false) ∧
    SlotKind.reset.samplesBy 539 = 0 ∧ SlotKind.reset.samplesBy 540 = 1 ∧
    SlotKind.reset.length State.reset = 960 := by decide

/-- WRITE_BIT 1 written at a clk edge, and n cycles with a pulse after it. -/
def tickRun (n : Nat) : State :=
  { State.reset with
    inputs := .clk ⟨false, true, some (.write 0x00 0x103)⟩ ::
      ((List.replicate n (⟨false, true, none⟩ : Cycle)).map Input.clk ++ []) }

theorem witness_tickLevel :
    (tickRun 65).busy = false ∧ (tickRun 65).idleOk = true ∧ decode 0x103 = .ok (.writeBit true) ∧
    busActive (.writeBit true) = true ∧ refusedAtAcceptance (.writeBit true) (tickRun 65) = false ∧
    (∀ c ∈ List.replicate 65 (⟨false, true, none⟩ : Cycle), c.rst = false ∧ c.host = none) ∧
    (nextOf (exec (.writeBit true) (accept 0x103 (tickRun 65)))).ticks = 64 ∧
    (List.replicate 65 (⟨false, true, none⟩ : Cycle)).countP (fun c => c.usTick) = 65 := by decide

/-- 64 pulses pass boundaries 0 to 63; the 65th is the end boundary. -/
theorem witness_tickLevel_ends :
    after (core.run 65 (tickRun 65)) (fun t => t.busy) = true ∧
    after (core.run 66 (tickRun 65)) (fun t => !t.busy && decide (t.trace = [.write true])) = true := by decide

theorem witness_nonBus :
    (∀ i, decode 0x43 = .ok i → busActive i = false ∨ refusedAtAcceptance i State.reset = true) ∧
    (∀ i, decode 0x21 = .ok i →
      busActive i = false ∨ refusedAtAcceptance i { State.reset with ldisc := 0 } = true) ∧
    command 0x43 (withSpad 0x28 []) = .next (nextOf (command 0x43 (withSpad 0x28 []))) := by
  refine ⟨fun i h => ?_, fun i h => ?_, rfl⟩
  · have e : decode 0x43 = .ok .decodeTemp := by decide
    rw [e] at h
    cases h
    exact .inl rfl
  · have e : decode 0x21 = .ok .searchNext := by decide
    rw [e] at h
    cases h
    exact .inr rfl

theorem witness_crcFlip :
    crc8 [0x28, 0x01, 0, 0, 0, 0, 0, 0x29] = 0 ∧ crc8 [0x28, 0x01, 0, 0, 0, 0, 0, 0xA9] ≠ 0 := by decide +kernel

theorem witness_search_refusals :
    ({ State.reset with ldisc := 0 } : State).ldisc = 0 ∧
    (withLine [true]).ldisc ≠ 0 ∧ (withLine [true]).sampleAt 0 = true := by decide

/-- What a single device answers to a SEARCH_NEXT. -/
def searchLine (r : Rom) : List Bool :=
  false :: (List.range 64).flatMap fun k => [romBit r (64 - k), !romBit r (64 - k)]

/-- No answer at position 64, the first; and at position 1, the last. -/
theorem witness_search_without_answer :
    idSample (withLine [false, true, true]) 64 = true ∧ compSample (withLine [false, true, true]) 64 = true ∧
    after (exec .searchNext (withLine [false, true, true]))
      (fun t => decide (t.cause = .busCollisionFault) && decide (t.info = 64)) = true ∧
    idSample (withLine ((searchLine (romOf [])).take 127 ++ [true, true])) 1 = true ∧
    compSample (withLine ((searchLine (romOf [])).take 127 ++ [true, true])) 1 = true := by decide +kernel

/-- ROM A of 95_test_vectors.md section 2, alone on the bus, right after SEARCH_INIT. -/
def romA : Rom := romOf [0x28, 0x01, 0, 0, 0, 0, 0, 0x29]

def oneDevice : State := withLine (searchLine romA)

theorem witness_branchRule :
    oneDevice.ldisc ≠ 0 ∧ oneDevice.sampleAt 0 = false ∧
    (∀ i ∈ List.range 64, ¬ (idSample oneDevice (i + 1) = true ∧ compSample oneDevice (i + 1) = true)) := by
  decide +kernel

/-- V-SRCH-3 and the hypotheses of the statements about an iteration. -/
theorem witness_searchFinds :
    [romA].Nodup ∧ oneDevice.ldisc.toNat = 65 ∧
    execSearchNext oneDevice = .next (nextOf (execSearchNext oneDevice)) ∧
    iterationAnswered [romA] (newSlots oneDevice (nextOf (execSearchNext oneDevice))) = true := by
  refine ⟨by decide, by decide, rfl, by decide +kernel⟩

/-- Two devices that differ in the first bit on the wire: they collide at position 64. -/
def romOne : Rom := romOf [0x01]
def romZero : Rom := romOf []
def twoDevices : List Rom := [romZero, romOne]

/-- After the iteration that found `romOne`. -/
def carried : State := { State.reset with srom := romOne, ldisc := 64 }

theorem witness_carriedState : CarriedState twoDevices carried := by
  refine ⟨by decide, by decide, by decide,
    ⟨by decide, romZero, by decide, fun j h1 h2 => ?_, by decide⟩, fun i _ h2 h => ?_⟩
  · have e : carried.ldisc.toNat = 64 := by decide
    omega
  · have e : carried.ldisc.toNat = 64 := by decide
    obtain ⟨h3, d, hd, h4, h5⟩ := h
    have hd' : d = romZero ∨ d = romOne := by simpa [twoDevices] using hd
    rcases hd' with rfl | rfl
    · have h6 := h4 64 (by omega) (by omega)
      revert h6
      decide
    · have h6 : romBit carried.srom i = false := h5
      rw [h3] at h6
      exact absurd h6 (by decide)

/-- The answers of both iterations: at position 64 a collision, below it only one device is left. -/
def twoLine : List Bool :=
  [false, false, false] ++ (searchLine romZero).drop 3 ++ [false, false, false] ++ (searchLine romZero).drop 3

def scanStart : State := nextOf (exec .searchInit (withLine twoLine))
def scanFirst : State := nextOf (execSearchNext scanStart)
def scanSecond : State := nextOf (execSearchNext scanFirst)

theorem witness_searchRun_start :
    exec .searchInit (withLine twoLine) = .next scanStart ∧ twoDevices.Nodup ∧ twoDevices ≠ [] ∧
    [scanFirst, scanSecond].length = twoDevices.length := by
  refine ⟨rfl, by decide, by decide, by decide⟩

theorem witness_searchRun : SearchRun twoDevices scanStart [scanFirst, scanSecond] := by
  refine ⟨rfl, by decide +kernel, rfl, by decide +kernel, trivial⟩

theorem witness_searchRun_order :
    scanFirst.srom = romOne ∧ scanFirst.ldisc = 64 ∧ scanSecond.srom = romZero ∧ scanSecond.ldisc = 0 := by
  decide +kernel

/-- R121: no answer at position 64, reported, a retry, and then the device alone. -/
theorem test_scan_reports_and_retries :
    resultOf (List.replicate 40 .slot) (scan 3 fun _ => true)
        (withLine ([false, true, true] ++ searchLine romA)) =
      some ⟨[[0x28, 0x01, 0, 0, 0, 0, 0, 0x29]], [64], .allFound⟩ ∧
    resultOf (List.replicate 40 .slot) (scan 3 fun _ => false) (withLine [false, true, true]) =
      some ⟨[], [64], .collision⟩ := by decide +kernel

/-- N = 0 (V-SRCH-4). -/
theorem witness_searchRun_empty :
    exec .searchInit (withLine [true]) = .next (nextOf (exec .searchInit (withLine [true]))) ∧
    SearchRun [] (nextOf (exec .searchInit (withLine [true])))
      [nextOf (execSearchNext (nextOf (exec .searchInit (withLine [true]))))] := by
  refine ⟨rfl, rfl, by decide +kernel, trivial⟩

theorem witness_exchanges :
    (withLine [false]).sampleAt 0 = false ∧ (withLine [true]).sampleAt 0 = true ∧
    (9#8).toNat = 9 ∧ configByte 9 = 0x1F ∧ configByte 12 = 0x7F ∧ (8#8).toNat < 9 ∧ 12 < (13#8).toNat := by
  decide

theorem witness_decode :
    byteAt (withSpad 0x22 []).rom 0 = 0x22 ∧ byteAt (withSpad 0x28 []).rom 0 = 0x28 ∧
    byteAt (withSpad 0x10 [0, 0, 0, 0, 0, 0, 0, 1]).rom 0 = 0x10 ∧
    byteAt (withSpad 0x10 [0, 0, 0, 0, 0, 0, 0, 1]).buf 7 ≠ 0 ∧
    byteAt (withSpad 0x10 []).buf 7 = 0 ∧
    byteAt (withSpad 0x11 []).rom 0 ≠ 0x10 ∧ byteAt (withSpad 0x11 []).rom 0 ≠ 0x22 ∧
    byteAt (withSpad 0x11 []).rom 0 ≠ 0x28 := by decide

/-- V-DEC-6 and V-DEC-7: the ends of the range. -/
theorem witness_decodedRange :
    after (exec .decodeTemp (withSpad 0x28 [0x00, 0x80])) (fun t => decide (t.tc100.toInt = -204800)) = true ∧
    after (exec .decodeTemp (withSpad 0x28 [0xFF, 0x7F])) (fun t => decide (t.tc100.toInt = 204793)) = true ∧
    exec .decodeTemp (withSpad 0x28 []) = .next (nextOf (exec .decodeTemp (withSpad 0x28 []))) ∧
    (nextOf (exec .decodeTemp (withSpad 0x28 []))).cause = .ok := by
  refine ⟨by decide, by decide, rfl, by decide⟩

/-- P3 of 95_test_vectors.md, with a device that returns 0x3F as byte 4 and 0 elsewhere. -/
def spadLine : List Bool :=
  false :: (List.replicate 32 false ++ wireBits 0x3F ++ List.replicate 32 false)

def setTen : State := nextOf (exec (.setRes 10) (withLine [false]))
def readBack : State := nextOf (exec .readSpad (withLine spadLine))

theorem witness_resolutionRoundTrip :
    9 ≤ (10#8).toNat ∧ (10#8).toNat ≤ 12 ∧ exec (.setRes 10) (withLine [false]) = .next setTen ∧
    exec .readSpad (withLine spadLine) = .next readBack ∧ byteAt readBack.buf 4 = byteAt setTen.buf 4 := by
  refine ⟨by decide, by decide, rfl, rfl, by decide +kernel⟩

end Sys2Proof.Tests
end

section
/-! PROOFS. The statements about the state (10_state.md): the frame of every command, the words STATUS and
CAUSE, the range of a reading, and the invariant of the machine. -/

namespace Sys2Proof.Machine

/-! ### Frames compose -/

theorem sameExcept.refl (fs : List Field) (s : State) : sameExcept fs s s := by
  intro f _
  cases f <;> rfl

theorem Field.same.trans {f : Field} {s t u : State} (h : f.same s t) (k : f.same t u) : f.same s u := by
  cases f <;> exact Eq.trans h k

theorem sameExcept.trans {fs : List Field} {s t u : State} (h : sameExcept fs s t)
    (k : sameExcept fs t u) : sameExcept fs s u :=
  fun f hf => (h f hf).trans (k f hf)

theorem sameExcept.mono {fs gs : List Field} {s t : State} (h : sameExcept fs s t) (hs : fs ⊆ gs) :
    sameExcept gs s t :=
  fun f hf => h f fun hm => hf (hs hm)

/-! ### The frame of each update -/

theorem endCommand_frame (c : Cause) (n : Pos) (s : State) : sameExcept endFields s (endCommand c n s) := by
  intro f hf
  cases f <;> simp [endFields, Field.same] at hf ⊢

theorem prologue_frame (s : State) : sameExcept [.spul, .ticks] s (prologue s) := by
  intro f hf
  cases f <;> simp [Field.same] at hf ⊢

theorem setSpul_frame (b : Bool) (s : State) : sameExcept [.spul] s (setSpul b s) := by
  intro f hf
  cases f <;> simp [Field.same] at hf ⊢

theorem setPresence_frame (b : Bool) (s : State) : sameExcept [.presence] s (setPresence b s) := by
  intro f hf
  cases f <;> simp [Field.same] at hf ⊢

theorem setFound_frame (b : Bool) (s : State) : sameExcept [.found] s (setFound b s) := by
  intro f hf
  cases f <;> simp [Field.same] at hf ⊢

theorem setPmode_frame (b : Bool) (s : State) : sameExcept [.pmode] s (setPmode b s) := by
  intro f hf
  cases f <;> simp [Field.same] at hf ⊢

theorem setTvalid_frame (b : Bool) (s : State) : sameExcept [.tvalid] s (setTvalid b s) := by
  intro f hf
  cases f <;> simp [Field.same] at hf ⊢

theorem setLdisc_frame (v : Pos) (s : State) : sameExcept [.ldisc] s (setLdisc v s) := by
  intro f hf
  cases f <;> simp [Field.same] at hf ⊢

theorem setData_frame (v : Byte) (s : State) : sameExcept [.data] s (setData v s) := by
  intro f hf
  cases f <;> simp [Field.same] at hf ⊢

theorem setCrc_frame (v : Byte) (s : State) : sameExcept [.crc] s (setCrc v s) := by
  intro f hf
  cases f <;> simp [Field.same] at hf ⊢

theorem setBufByte_frame (k : Nat) (v : Byte) (s : State) : sameExcept [.buf] s (setBufByte k v s) := by
  intro f hf
  cases f <;> simp [Field.same] at hf ⊢

theorem withBuf_frame (b : Buf) (s : State) : sameExcept [.buf] s (withBuf b s) := by
  intro f hf
  cases f <;> simp [Field.same, withBuf] at hf ⊢

theorem setReading_frame (r : Int × Nat) (s : State) :
    sameExcept [.tnum, .tden, .tc100, .tvalid] s (setReading r s) := by
  intro f hf
  cases f <;> simp [Field.same, setReading] at hf ⊢

theorem clearWork_frame (s : State) : sameExcept [.wrom, .ndisc] s (clearWork s) := by
  intro f hf
  cases f <;> simp [Field.same] at hf ⊢

theorem commitSearch_frame (s : State) : sameExcept [.srom, .ldisc, .found] s (commitSearch s) := by
  intro f hf
  cases f <;> simp [Field.same] at hf ⊢

theorem positionRead_frame (n : Nat) (s : State) :
    sameExcept [.owOut, .crit, .line, .draws, .trace, .ticks, .pos, .idb, .cmpb] s (positionRead n s) := by
  intro f hf
  cases f <;> simp [Field.same, positionRead, issued] at hf ⊢

theorem positionDone_frame (n : Nat) (s : State) :
    sameExcept [.owOut, .crit, .line, .draws, .trace, .ticks, .pos, .idb, .cmpb, .wrom, .ndisc] s
      (positionDone n s) := by
  intro f hf
  cases f <;> simp [Field.same, positionDone_eq, withWork, issued] at hf ⊢

/-! ### The reading of DECODE (44_ds18x20.md R251 to R257, 10_state.md R59) -/

theorem family_legacy_iff (b : Byte) : family b = .legacy9 ↔ b = 0x10 := by
  unfold family
  split
  · simp_all [config]
  · split <;> simp_all [config]

/-- A numerator and a denominator that TNUM, TDEN and TC100 hold exactly, TC100 within the range of R59. -/
def ReadingFits (r : Int × Nat) : Prop :=
  -2 ^ 17 ≤ r.1 ∧ r.1 < 2 ^ 17 ∧ 0 < r.2 ∧ r.2 < 2 ^ 16 ∧
    -204800 ≤ hundredths r.1 r.2 ∧ hundredths r.1 r.2 ≤ 204793

theorem hundredths_bounds {n : Int} {d : Nat} (hd : 0 < d) (h1 : -2048 * (d : Int) ≤ n)
    (h2 : 100 * n < 204794 * (d : Int)) : -204800 ≤ hundredths n d ∧ hundredths n d ≤ 204793 := by
  have hd' : (0 : Int) < d := by exact_mod_cast hd
  have e : hundredths n d = 100 * n / (d : Int) := Int.fdiv_eq_ediv_of_nonneg _ hd'.le
  rw [e]
  constructor
  · rw [Int.le_ediv_iff_mul_le hd']
    omega
  · have := (Int.ediv_lt_iff_lt_mul hd').mpr h2
    omega

theorem decodeExtended_bounds (lsb msb : Byte) :
    -32768 ≤ (decodeExtended lsb msb).1 ∧ (decodeExtended lsb msb).1 ≤ 32767 := by
  have h1 := BitVec.le_toInt (msb ++ lsb)
  have h2 := BitVec.toInt_lt (x := msb ++ lsb)
  simp only [decodeExtended]
  omega

theorem decodeExtended_fits (lsb msb : Byte) : ReadingFits (decodeExtended lsb msb) := by
  obtain ⟨h1, h2⟩ := decodeExtended_bounds lsb msb
  have hd : (decodeExtended lsb msb).2 = 16 := rfl
  have hh := hundredths_bounds (n := (decodeExtended lsb msb).1) (d := 16) (by omega) (by omega) (by omega)
  rw [← hd] at hh
  exact ⟨by omega, by omega, by omega, by omega, hh⟩

theorem legacyInteger_bounds (lsb msb : Byte) :
    -128 ≤ legacyInteger lsb msb ∧ legacyInteger lsb msb ≤ 127 := by
  have hs : (lsb >>> 1).toNat ≤ 127 := by
    rw [BitVec.toNat_ushiftRight, Nat.shiftRight_eq_div_pow]
    omega
  unfold legacyInteger
  split
  · have h1 : (0x80 : Byte).toNat ≤ ((lsb >>> 1) ||| (0x80 : Byte)).toNat := by
      rw [BitVec.toNat_or]
      exact Nat.right_le_or
    have h2 : (0x80 : Byte).toNat = 128 := rfl
    omega
  · omega

/-- R254 with the divisor CPD taken out: `n = (4·ip + 3)·CPD − 4·CR`. -/
theorem decodeLegacy_bounds (lsb msb cr cpd : Byte) (h : cpd ≠ 0) :
    4 ≤ (decodeLegacy lsb msb cr cpd).2 ∧ (decodeLegacy lsb msb cr cpd).2 ≤ 1020 ∧
    -130815 ≤ (decodeLegacy lsb msb cr cpd).1 ∧ (decodeLegacy lsb msb cr cpd).1 ≤ 130305 ∧
    -2048 * ((decodeLegacy lsb msb cr cpd).2 : Int) ≤ (decodeLegacy lsb msb cr cpd).1 ∧
    100 * (decodeLegacy lsb msb cr cpd).1 < 204794 * ((decodeLegacy lsb msb cr cpd).2 : Int) := by
  have hc : cpd.toNat ≠ 0 := fun e => h (BitVec.eq_of_toNat_eq e)
  obtain ⟨hi1, hi2⟩ := legacyInteger_bounds lsb msb
  have hcpd := cpd.isLt
  have hcr := cr.isLt
  have lo := Int.mul_le_mul_of_nonneg_right hi1 (Int.natCast_nonneg cpd.toNat)
  have hi := Int.mul_le_mul_of_nonneg_right hi2 (Int.natCast_nonneg cpd.toNat)
  have e : (decodeLegacy lsb msb cr cpd).1 =
      4 * (legacyInteger lsb msb * cpd.toNat) + 3 * cpd.toNat - 4 * cr.toNat := by
    simp only [decodeLegacy]
    ring
  have e2 : (decodeLegacy lsb msb cr cpd).2 = 4 * cpd.toNat := rfl
  omega

theorem decodeLegacy_fits (lsb msb cr cpd : Byte) (h : cpd ≠ 0) :
    ReadingFits (decodeLegacy lsb msb cr cpd) := by
  obtain ⟨h1, h2, h3, h4, h5, h6⟩ := decodeLegacy_bounds lsb msb cr cpd h
  exact ⟨by omega, by omega, by omega, by omega, hundredths_bounds (by omega) h5 h6⟩

/-- The registers of a reading hold what was computed. -/
theorem setReading_exact {r : Int × Nat} (h : ReadingFits r) (s : State) :
    (setReading r s).tnum.toInt = r.1 ∧ (setReading r s).tden.toNat = r.2 ∧
      (setReading r s).tc100.toInt = hundredths r.1 r.2 := by
  obtain ⟨h1, h2, h3, h4, h5, h6⟩ := h
  refine ⟨?_, Nat.mod_eq_of_lt h4, ?_⟩
  · exact BitVec.toInt_ofInt_eq_self (by omega) (by omega) (by omega)
  · exact BitVec.toInt_ofInt_eq_self (by omega) (by omega) (by omega)

/-- All that DECODE can do (R251, R257, R295): two faults, or a reading of one of the two families. -/
theorem execDecodeTemp_cases (s : State) :
    execDecodeTemp s = .next (raise .unsupportedFamily 0 (setTvalid false s)) ∨
    execDecodeTemp s = .next (raise .invalidArgument 6 (setTvalid false s)) ∨
    (byteAt s.rom 0 ≠ 0x10 ∧ execDecodeTemp s = .next (finish
      (setReading (decodeExtended (byteAt s.buf 0) (byteAt s.buf 1)) (setTvalid false s)))) ∨
    (byteAt s.rom 0 = 0x10 ∧ byteAt s.buf 7 ≠ 0 ∧ execDecodeTemp s = .next (finish
      (setReading (decodeLegacy (byteAt s.buf 0) (byteAt s.buf 1) (byteAt s.buf 6) (byteAt s.buf 7))
        (setTvalid false s)))) := by
  have hl := family_legacy_iff (byteAt s.rom 0)
  cases h : family (byteAt s.rom 0) with
  | unsupported => exact .inl (by simp [execDecodeTemp, h])
  | extended12 =>
    rw [h] at hl
    exact .inr (.inr (.inl ⟨fun e => by simpa using hl.mpr e, by simp [execDecodeTemp, h]⟩))
  | legacy9 =>
    rw [h] at hl
    by_cases h7 : byteAt s.buf 7 = 0
    · exact .inr (.inl (by simp [execDecodeTemp, h, h7]))
    · exact .inr (.inr (.inr ⟨hl.mp rfl, h7, by simp only [execDecodeTemp, h, if_neg h7]⟩))

/-- Settles O58: the bounds of a reading, family by family. -/
theorem decodedValuesStayInRange : Obligations.DecodedValuesStayInRange := by
  intro s t ht hc
  have ht' : execDecodeTemp s = .next t := ht
  rcases execDecodeTemp_cases s with h | h | ⟨hr, h⟩ | ⟨hr, h7, h⟩ <;> rw [h] at ht' <;> cases ht'
  · simp at hc
  · simp at hc
  · have hf := decodeExtended_fits (byteAt s.buf 0) (byteAt s.buf 1)
    obtain ⟨hn, hd, ht⟩ := setReading_exact hf (setTvalid false s)
    obtain ⟨b1, b2⟩ := decodeExtended_bounds (byteAt s.buf 0) (byteAt s.buf 1)
    obtain ⟨-, -, -, -, c1, c2⟩ := hf
    simp only [finish_tc100, finish_tnum, finish_tden, hn, hd, ht]
    exact ⟨c1, c2, fun e => absurd e hr, fun _ => ⟨b1, b2, rfl⟩⟩
  · have hf := decodeLegacy_fits (byteAt s.buf 0) (byteAt s.buf 1) (byteAt s.buf 6) _ h7
    obtain ⟨hn, hd, ht⟩ := setReading_exact hf (setTvalid false s)
    obtain ⟨d1, d2, b1, b2, -, -⟩ :=
      decodeLegacy_bounds (byteAt s.buf 0) (byteAt s.buf 1) (byteAt s.buf 6) _ h7
    obtain ⟨-, -, -, -, c1, c2⟩ := hf
    simp only [finish_tc100, finish_tnum, finish_tden, hn, hd, ht]
    exact ⟨c1, c2, fun _ => ⟨b1, b2, d1, d2⟩, fun e => absurd hr e⟩

/-! ### The words STATUS and CAUSE -/

theorem getLsbD_flagAt (b : Bool) (k j : Nat) (hk : k < 32) :
    (flagAt b k).getLsbD j = (b && decide (j = k)) := by
  cases b with
  | false => simp [flagAt]
  | true =>
    have e : flagAt true k = BitVec.twoPow 32 k := rfl
    rw [e, BitVec.getLsbD_twoPow, decide_eq_true hk, decide_eq_decide.mpr (eq_comm (a := k))]

/-- The STATUS word bit by bit (R37). -/
theorem getLsbD_statusWord (s : State) (j : Nat) :
    s.statusWord.getLsbD j =
      (s.busy && decide (j = 0) || s.presence && decide (j = 1) || s.found && decide (j = 2) ||
        s.pmode && decide (j = 3) || s.spuOut && decide (j = 4) || s.crcz && decide (j = 5) ||
        s.tvalid && decide (j = 6) || s.sdone && decide (j = 7)) := by
  simp [State.statusWord, getLsbD_flagAt]

/-- The CAUSE word as a number (R46): CODE and INFO do not overlap. -/
theorem toNat_causeWord (s : State) : s.causeWord.toNat = 256 * s.info.toNat + s.cause.code.toNat := by
  have hi := s.info.isLt
  have hc := s.cause.code.isLt
  have e : (s.info.zeroExtend 32 <<< 8 : Word).toNat = s.info.toNat <<< 8 := by
    simp only [BitVec.truncate_eq_setWidth, BitVec.toNat_shiftLeft, BitVec.toNat_setWidth, Nat.shiftLeft_eq]
    omega
  have e' : (s.cause.code.zeroExtend 32 : Word).toNat = s.cause.code.toNat := by
    simp only [BitVec.truncate_eq_setWidth, BitVec.toNat_setWidth]
    omega
  rw [State.causeWord, BitVec.toNat_or, e, e', Nat.or_comm, ← Nat.shiftLeft_add_eq_or_of_lt (by omega),
    Nat.shiftLeft_eq, Nat.mul_comm]

/-- Settles O18: one bit of STATUS after the other, and the two fields of CAUSE. -/
theorem statusAndCauseWordsShowTheirFields : Obligations.StatusAndCauseWordsShowTheirFields := by
  intro s
  refine ⟨(getLsbD_statusWord s 0).trans (by simp), (getLsbD_statusWord s 1).trans (by simp),
    (getLsbD_statusWord s 2).trans (by simp), (getLsbD_statusWord s 3).trans (by simp),
    (getLsbD_statusWord s 4).trans (by simp [State.spuOut]),
    (getLsbD_statusWord s 5).trans (by simp [State.crcz, BEq.beq]),
    (getLsbD_statusWord s 6).trans (by simp),
    (getLsbD_statusWord s 7).trans (by simp [State.sdone, BEq.beq]), fun k hk => ?_, ?_⟩
  · have h (j : Nat) (hj : j < 8) : decide (k = j) = false := decide_eq_false (by omega)
    simp [getLsbD_statusWord, h]
  · rw [toNat_causeWord]
    cases s.cause <;> rfl

/-- Settles O19: every stated value of R52 is read off the reset state. -/
theorem resetStateHasTheStatedValues : Obligations.ResetStateHasTheStatedValues := by
  unfold Obligations.ResetStateHasTheStatedValues
  decide

/-- Settles O21: the invariant evaluates to true at reset. -/
theorem invariantHoldsAtReset : Obligations.InvariantHoldsAtReset := by
  unfold Obligations.InvariantHoldsAtReset
  decide

/-! ### The registers of the invariant (10_state.md R33, R35, R36, R50, R59, R291) -/

/-- A reading that DECODE marks valid is exact: TDEN is not 0 and TC100 is the floor (R35, R255). -/
def ReadingExact (s : State) : Prop :=
  s.tvalid = true → s.tden ≠ 0 ∧ s.tc100.toInt = hundredths s.tnum.toInt s.tden.toNat

/-- `State.registersOk` as a proposition, one conjunct per register. -/
theorem registersOk_iff (s : State) :
    s.registersOk = true ↔
      s.ldisc.toNat ≤ 65 ∧ s.ndisc.toNat ≤ 64 ∧ s.pos.toNat ≤ 64 ∧
        (s.res = 0 ∨ 9 ≤ s.res.toNat ∧ s.res.toNat ≤ 12) ∧ s.cause.infoLegal s.info = true ∧
        ReadingExact s := by
  cases h : s.tvalid <;>
    simp [State.registersOk, ReadingExact, hundredths, h, and_assoc]

/-- The registers are in range and the line is released with `crit` = 0 (R154): what the end of a command
needs in order to leave a state that meets the invariant. -/
def Rests (s : State) : Prop := s.registersOk = true ∧ s.owOut = true ∧ s.crit = false

@[simp] theorem rests_setIdb (b : Bool) (s : State) : Rests (setIdb b s) ↔ Rests s := Iff.rfl
@[simp] theorem rests_setCmpb (b : Bool) (s : State) : Rests (setCmpb b s) ↔ Rests s := Iff.rfl

theorem Rests.issued {s : State} (h : Rests s) (xs : List Slot) (n len : Nat) :
    Rests (issued xs n len s) := ⟨h.1, rfl, rfl⟩

theorem toNat_ofNat_position {n : Nat} (hn : n ≤ 64) : (BitVec.ofNat 7 n).toNat = n := by
  rw [BitVec.toNat_ofNat]
  exact Nat.mod_eq_of_lt (by omega)

theorem Rests.setTvalid_false {s : State} (h : Rests s) : Rests (setTvalid false s) := by
  obtain ⟨hr, hl⟩ := h
  obtain ⟨h1, h2, h3, h4, h5, -⟩ := (registersOk_iff s).mp hr
  exact ⟨(registersOk_iff _).mpr ⟨h1, h2, h3, h4, h5, fun h => by simp at h⟩, hl⟩

theorem Rests.setLdisc {s : State} (h : Rests s) {v : Pos} (hv : v.toNat ≤ 65) : Rests (setLdisc v s) := by
  obtain ⟨hr, hl⟩ := h
  obtain ⟨-, hr⟩ := (registersOk_iff s).mp hr
  exact ⟨(registersOk_iff _).mpr ⟨hv, hr⟩, hl⟩

theorem Rests.setPosition {s : State} (h : Rests s) {n : Nat} (hn : n ≤ 64) : Rests (setPosition n s) := by
  obtain ⟨hr, hl⟩ := h
  obtain ⟨h1, h2, -, hr⟩ := (registersOk_iff s).mp hr
  have hp : (Machine.setPosition n s).pos.toNat ≤ 64 := (toNat_ofNat_position hn).trans_le hn
  exact ⟨(registersOk_iff _).mpr ⟨h1, h2, hp, hr⟩, hl⟩

/-- WROM and NDISC, which SEARCH_NEXT writes together (R204, R205, R207). -/
theorem Rests.writeWork {s : State} (h : Rests s) (w : Rom) {nd : Pos} (hnd : nd.toNat ≤ 64) :
    Rests { s with wrom := w, ndisc := nd } := by
  obtain ⟨hr, hl⟩ := h
  obtain ⟨h1, -, hr⟩ := (registersOk_iff s).mp hr
  exact ⟨(registersOk_iff _).mpr ⟨h1, hnd, hr⟩, hl⟩

theorem Rests.clearWork {s : State} (h : Rests s) : Rests (clearWork s) :=
  h.writeWork _ (Nat.zero_le _)

theorem Rests.recordChoice {s : State} (h : Rests s) : Rests (recordChoice s) := by
  obtain ⟨-, h2, h3, -⟩ := (registersOk_iff s).mp h.1
  refine h.writeWork _ ?_
  split
  · exact h3
  · exact h2

theorem Rests.noteChoice {s : State} (h : Rests s) {n : Nat} (hn : n ≤ 64) (coll b : Bool) :
    Rests (noteChoice n coll b s) := by
  obtain ⟨-, h2, -⟩ := (registersOk_iff s).mp h.1
  refine h.writeWork _ ?_
  split
  · exact (toNat_ofNat_position hn).trans_le hn
  · exact h2

theorem Rests.positionRead {s : State} (h : Rests s) {n : Nat} (hn : n ≤ 64) : Rests (positionRead n s) := by
  simp only [Machine.positionRead, rests_setCmpb, rests_setIdb]
  exact (h.issued _ _ _).setPosition hn

theorem Rests.positionDone {s : State} (h : Rests s) {n : Nat} (hn : n ≤ 64) : Rests (positionDone n s) := by
  refine Rests.noteChoice ?_ hn _ _
  simp only [rests_setCmpb, rests_setIdb]
  exact (h.issued _ _ _).setPosition hn

theorem Rests.commitSearch {s : State} (h : Rests s) : Rests (commitSearch s) := by
  obtain ⟨hr, hl⟩ := h
  obtain ⟨-, h2, hr⟩ := (registersOk_iff s).mp hr
  exact ⟨(registersOk_iff _).mpr ⟨Nat.le_succ_of_le h2, h2, hr⟩, hl⟩

theorem Rests.setReading {s : State} (h : Rests s) {r : Int × Nat} (hf : ReadingFits r) :
    Rests (setReading r s) := by
  obtain ⟨hr, hl⟩ := h
  obtain ⟨h1, h2, h3, h4, h5, -⟩ := (registersOk_iff s).mp hr
  obtain ⟨e1, e2, e3⟩ := setReading_exact hf s
  obtain ⟨-, -, hd, -⟩ := hf
  have hd0 : (Machine.setReading r s).tden ≠ 0 := fun e => hd.ne' (e2.symm.trans (congrArg BitVec.toNat e))
  exact ⟨(registersOk_iff _).mpr ⟨h1, h2, h3, h4, h5, fun _ => ⟨hd0, by rw [e1, e2, e3]⟩⟩, hl⟩

theorem resolutionOf_range (b : Byte) : 9 ≤ (resolutionOf b).toNat ∧ (resolutionOf b).toNat ≤ 12 := by
  have h := (b.extractLsb' 5 2).isLt
  have h9 : (9 : BitVec 4).toNat = 9 := rfl
  simp only [resolutionOf, BitVec.toNat_add, BitVec.truncate_eq_setWidth, BitVec.toNat_setWidth, h9]
  omega

/-- The end of a command (R282) leaves an idle engine that meets the invariant. -/
theorem Rests.endCommand_ok {s : State} (h : Rests s) {c : Cause} {n : Pos} (hc : c.infoLegal n = true) :
    (endCommand c n s).ok = true := by
  obtain ⟨hr, ho, hk⟩ := h
  obtain ⟨h1, h2, h3, h4, -, h6⟩ := (registersOk_iff s).mp hr
  have hr' : (endCommand c n s).registersOk = true := (registersOk_iff _).mpr ⟨h1, h2, h3, h4, hc, h6⟩
  simp [State.ok, hr', State.idleOk, ho, hk]

/-! ### What a command does up to its end -/

/-- The state s has become t on the way to a command's end: only the fields `fs` were written, and a line
at rest is so again. -/
def Keeps (fs : List Field) (s t : State) : Prop := sameExcept fs s t ∧ (Rests s → Rests t)

/-- A command that began in s has ended in t, with a cause and an INFO that R291 admits. -/
def Ends (fs : List Field) (s t : State) : Prop :=
  ∃ c n u, t = endCommand c n u ∧ c.infoLegal n = true ∧ Keeps fs s u

theorem Keeps.refl (fs : List Field) (s : State) : Keeps fs s s := ⟨sameExcept.refl fs s, id⟩

theorem Keeps.update {fs gs : List Field} {s t u : State} (h : Keeps fs s t) (hu : sameExcept gs t u)
    (hs : gs ⊆ fs) (hr : Rests t → Rests u) : Keeps fs s u :=
  ⟨h.1.trans (hu.mono hs), hr ∘ h.2⟩

theorem Keeps.finish {fs : List Field} {s t : State} (h : Keeps fs s t) : Ends fs s (finish t) :=
  ⟨.ok, 0, t, rfl, rfl, h⟩

theorem Keeps.raise {fs : List Field} {s t : State} (h : Keeps fs s t) {c : Cause} {n : Pos}
    (hc : c.infoLegal n = true) : Ends fs s (raise c n t) :=
  ⟨c, n, t, rfl, hc, h⟩

theorem Ends.frame {fs : List Field} {s t : State} (h : Ends fs s t) : sameExcept (endFields ++ fs) s t := by
  obtain ⟨c, n, u, rfl, -, hu, -⟩ := h
  exact (hu.mono (List.subset_append_right _ _)).trans
    ((endCommand_frame c n u).mono (List.subset_append_left _ _))

theorem Ends.ok {fs : List Field} {s t : State} (h : Ends fs s t) (hs : Rests s) :
    t.ok = true ∧ t.busy = false := by
  obtain ⟨c, n, u, rfl, hc, -, hu⟩ := h
  exact ⟨(hu hs).endCommand_ok hc, rfl⟩

section
variable {fs : List Field} {s t : State} (h : Keeps fs s t)
include h

theorem Keeps.prologue (hf : busFields ⊆ fs) : Keeps fs s (prologue t) :=
  h.update (prologue_frame t) (List.Subset.trans (by decide) hf) id

theorem Keeps.issued (hf : busFields ⊆ fs) (xs : List Slot) (n len : Nat) :
    Keeps fs s (issued xs n len t) :=
  h.update (issued_frame xs n len t) (List.Subset.trans (by decide) hf) fun hr => hr.issued xs n len

theorem Keeps.setPresence (hf : .presence ∈ fs) (b : Bool) : Keeps fs s (setPresence b t) :=
  h.update (setPresence_frame b t) (by simpa using hf) id

theorem Keeps.setFound (hf : .found ∈ fs) (b : Bool) : Keeps fs s (setFound b t) :=
  h.update (setFound_frame b t) (by simpa using hf) id

theorem Keeps.setData (hf : .data ∈ fs) (v : Byte) : Keeps fs s (setData v t) :=
  h.update (setData_frame v t) (by simpa using hf) id

theorem Keeps.setCrc (hf : .crc ∈ fs) (v : Byte) : Keeps fs s (setCrc v t) :=
  h.update (setCrc_frame v t) (by simpa using hf) id

theorem Keeps.setPmode (hf : .pmode ∈ fs) (b : Bool) : Keeps fs s (setPmode b t) :=
  h.update (setPmode_frame b t) (by simpa using hf) id

theorem Keeps.setBufByte (hf : .buf ∈ fs) (k : Nat) (v : Byte) : Keeps fs s (setBufByte k v t) :=
  h.update (setBufByte_frame k v t) (by simpa using hf) id

theorem Keeps.setTvalid_false (hf : .tvalid ∈ fs) : Keeps fs s (setTvalid false t) :=
  h.update (setTvalid_frame false t) (by simpa using hf) Rests.setTvalid_false

theorem Keeps.setReading (hf : [.tnum, .tden, .tc100, .tvalid] ⊆ fs) {r : Int × Nat} (hr : ReadingFits r) :
    Keeps fs s (setReading r t) :=
  h.update (setReading_frame r t) hf fun ht => ht.setReading hr

/-- R263 writes SPUL, one of the fields of every bus-active command. -/
theorem Keeps.assertPullUp (hf : busFields ⊆ fs) : Keeps fs s (assertPullUp t) := by
  unfold Machine.assertPullUp
  split
  · exact h.update (setSpul_frame true t) (List.Subset.trans (by decide) hf) id
  · exact h

theorem Keeps.writeByteList (hf : busFields ⊆ fs) (vs : List Byte) : Keeps fs s (writeByteList vs t) := by
  cases vs with
  | nil => exact h
  | cons v vs => exact writeByteList_cons_eq v vs t ▸ h.issued hf _ _ _

theorem Keeps.writeByteSeq (hf : busFields ⊆ fs) (v : Byte) : Keeps fs s (writeByteSeq v t) :=
  writeByteSeq_eq v t ▸ h.issued hf _ _ _

theorem Keeps.readBuf (hf : busFields ⊆ fs) (hb : .buf ∈ fs) (k n : Nat) (hn : k + n ≤ 9) :
    Keeps fs s (readBufFrom k n t) := by
  cases n with
  | zero => exact h
  | succ n =>
    obtain ⟨b, e, -⟩ := readBufFrom_eq k n t hn
    exact e ▸ (h.issued hf _ _ _).update (withBuf_frame b _) (by simpa using hb) id

/-- `Address(bcast)` (R235) and a rest: both ends of the command, with and without presence. -/
theorem Keeps.address (hf : busFields ⊆ fs) (hp : .presence ∈ fs) (bcast : Bool) {rest : State → State}
    (hrest : ∀ u, Keeps fs s u → Ends fs s (rest u)) : Ends fs s (address bcast rest t) := by
  rw [address_eq]
  split
  · exact hrest _ (((h.prologue hf).issued hf _ _ _).setPresence hp _)
  · exact (((h.prologue hf).issued hf _ _ _).setPresence hp _).raise rfl

theorem Keeps.checkScratchpad (hc : .crc ∈ fs) : Ends fs s (checkScratchpad t) := by
  unfold Machine.checkScratchpad
  dsimp only
  split
  · exact (h.setCrc hc _).finish
  · exact (h.setCrc hc _).raise rfl

/-- The exchange of WRITE_SPAD and SET_RES (R245, R259). -/
theorem Keeps.writeScratchpad (hf : busFields ⊆ fs) (hp : .presence ∈ fs) :
    Ends fs s (writeScratchpad t) :=
  h.address hf hp false fun _ hu => (((hu.writeByteSeq hf _).writeByteList hf _).assertPullUp hf).finish

/-- The search loop (R207): no position, a position without an answer, or a position and the rest. -/
theorem Keeps.searchFrom (hf : busFields ++ writesOf .searchNext ⊆ fs) (n : Nat) (hn : n ≤ 64) :
    Ends fs s (searchFrom n t) := by
  induction n generalizing t with
  | zero =>
    exact (h.update (commitSearch_frame t) (List.Subset.trans (by decide) hf) Rests.commitSearch).finish
  | succ n ih =>
    rw [searchFrom_succ]
    split
    · refine (h.update (positionRead_frame (n + 1) t) (List.Subset.trans (by decide) hf) fun hr =>
        hr.positionRead hn).raise ?_
      simp [Cause.infoLegal, toNat_ofNat_position hn, hn]
    · exact ih (h.update (positionDone_frame (n + 1) t) (List.Subset.trans (by decide) hf) fun hr =>
        hr.positionDone hn) (by omega)

theorem Keeps.searchEntry (hf : busFields ++ writesOf .searchNext ⊆ fs) : Keeps fs s (searchEntry t) := by
  have hb : busFields ⊆ fs := List.Subset.trans (List.subset_append_left _ _) hf
  have hp := (h.setFound (hf (by decide)) false).prologue hb
  exact ((hp.issued hb _ _ _).setPresence (hf (by decide)) true).update (clearWork_frame _)
    (List.Subset.trans (by decide) hf) Rests.clearWork

theorem Keeps.searchAbsent (hf : busFields ++ writesOf .searchNext ⊆ fs) : Keeps fs s (searchAbsent t) := by
  have hb : busFields ⊆ fs := List.Subset.trans (List.subset_append_left _ _) hf
  have hp := (h.setFound (hf (by decide)) false).prologue hb
  exact ((hp.issued hb _ _ _).setPresence (hf (by decide)) false).update (setLdisc_frame 0 _)
    (List.Subset.trans (by decide) hf) fun hr => hr.setLdisc (by decide)

end

/-! ### The commands one by one (R53) -/

/-- All a command may write before its end (R53): `mayWrite` without the fields of the end. -/
def writesBefore (i : Instr) : List Field := (if busActive i then busFields else []) ++ writesOf i

theorem mayWrite_eq (i : Instr) : mayWrite i = endFields ++ writesBefore i :=
  List.append_assoc _ _ _

theorem busFields_subset {i : Instr} (h : busActive i = true) : busFields ⊆ writesBefore i := by
  simp [writesBefore, h]

theorem writesOf_subset (i : Instr) : writesOf i ⊆ writesBefore i := List.subset_append_right _ _

theorem searchInit_frame (s : State) (r : Rom) (v : Pos) (b : Bool) :
    sameExcept [.srom, .ldisc, .found] s { s with srom := r, ldisc := v, found := b } := by
  intro f hf
  cases f <;> simp [Field.same] at hf ⊢

theorem romTake_frame (s : State) (r : Rom) : sameExcept [.rom] s { s with rom := r } := by
  intro f hf
  cases f <;> simp [Field.same] at hf ⊢

theorem getRes_frame (s : State) (v : BitVec 4) : sameExcept [.res] s { s with res := v } := by
  intro f hf
  cases f <;> simp [Field.same] at hf ⊢

/-- Every command ends, having written only its columns on the way. -/
theorem exec_ends (i : Instr) (s : State) : ∃ t, exec i s = .next t ∧ Ends (writesBefore i) s t := by
  have h := Keeps.refl (writesBefore i) s
  have hb := busFields_subset (i := i)
  have hw := writesOf_subset i
  cases i with
  | nop => exact ⟨_, rfl, h.finish⟩
  | reset =>
    refine ⟨_, rfl, ?_⟩
    simp only [resetSlot_eq]
    split
    · exact (((h.prologue (hb rfl)).issued (hb rfl) _ _ _).setPresence (hw (by decide)) _).finish
    · exact (((h.prologue (hb rfl)).issued (hb rfl) _ _ _).setPresence (hw (by decide)) _).raise rfl
  | readBit =>
    refine ⟨_, rfl, ?_⟩
    simp only [readSlot_eq]
    exact (((h.prologue (hb rfl)).issued (hb rfl) _ _ _).setData (hw (by decide)) _).finish
  | writeBit b =>
    refine ⟨_, rfl, ?_⟩
    rw [writeSlot_eq]
    exact ((h.prologue (hb rfl)).issued (hb rfl) _ _ _).finish
  | readByte =>
    refine ⟨_, rfl, ?_⟩
    simp only [(readByteSeq_eq _).1]
    exact (((h.prologue (hb rfl)).issued (hb rfl) _ _ _).setData (hw (by decide)) _).finish
  | writeByte v => exact ⟨_, rfl, ((h.prologue (hb rfl)).writeByteSeq (hb rfl) v).finish⟩
  | readBytes n =>
    refine ⟨_, rfl, ?_⟩
    split
    · exact h.raise rfl
    · exact ((h.prologue (hb rfl)).readBuf (hb rfl) (hw (List.mem_singleton.mpr rfl)) 0 _ (by omega)).finish
  | writeBytes n =>
    refine ⟨_, rfl, ?_⟩
    split
    · exact h.raise rfl
    · exact ((h.prologue (hb rfl)).writeByteList (hb rfl) _).finish
  | crcClr => exact ⟨_, rfl, (h.setCrc (hw (by decide)) _).finish⟩
  | crcUpd v => exact ⟨_, rfl, (h.setCrc (hw (List.mem_singleton.mpr rfl)) _).finish⟩
  | crcBuf n =>
    refine ⟨_, rfl, ?_⟩
    split
    · exact h.raise rfl
    · exact (h.setCrc (hw (List.mem_singleton.mpr rfl)) _).finish
  | crcRom b => exact ⟨_, rfl, (h.setCrc (hw (List.mem_singleton.mpr rfl)) _).finish⟩
  | searchInit =>
    refine ⟨_, rfl, (h.update (searchInit_frame s _ config.ldiscInit false) hw fun hr => ?_).finish⟩
    exact Rests.setLdisc (v := config.ldiscInit) hr (by decide)
  | searchNext =>
    refine ⟨_, execSearchNext_eq s, ?_⟩
    split
    · exact h.raise rfl
    · split
      · exact (h.searchEntry (List.Subset.refl _)).searchFrom (List.Subset.refl _) 64 (Nat.le_refl _)
      · exact (h.searchAbsent (List.Subset.refl _)).raise rfl
  | romTake => exact ⟨_, rfl, (h.update (romTake_frame s s.srom) hw id).finish⟩
  | select => exact ⟨_, rfl, h.address (hb rfl) (hw (by decide)) false fun _ hu => hu.finish⟩
  | skip => exact ⟨_, rfl, h.address (hb rfl) (hw (by decide)) true fun _ hu => hu.finish⟩
  | convert b =>
    exact ⟨_, rfl, h.address (hb rfl) (hw (List.mem_singleton.mpr rfl)) b fun _ hu =>
      ((hu.writeByteSeq (hb rfl) _).assertPullUp (hb rfl)).finish⟩
  | readSpad =>
    exact ⟨_, rfl, (h.setTvalid_false (hw (by decide))).address (hb rfl) (hw (by decide)) false fun _ hu =>
      ((hu.writeByteSeq (hb rfl) _).readBuf (hb rfl) (hw (by decide)) 0 9 (Nat.le_refl _)).checkScratchpad
        (hw (by decide))⟩
  | writeSpad => exact ⟨_, rfl, h.writeScratchpad (hb rfl) (hw (by decide))⟩
  | decodeTemp =>
    have ht := h.setTvalid_false (hw (by decide))
    rcases execDecodeTemp_cases s with e | e | ⟨-, e⟩ | ⟨-, h7, e⟩
    · exact ⟨_, e, ht.raise rfl⟩
    · exact ⟨_, e, ht.raise rfl⟩
    · exact ⟨_, e, (ht.setReading hw (decodeExtended_fits _ _)).finish⟩
    · exact ⟨_, e, (ht.setReading hw (decodeLegacy_fits _ _ _ _ h7)).finish⟩
  | getRes =>
    have hf := getRes_frame s (resolutionOf (byteAt s.buf 4))
    refine ⟨_, rfl, (h.update hf hw fun ⟨hr, hl⟩ => ⟨?_, hl⟩).finish⟩
    obtain ⟨h1, h2, h3, -, h5⟩ := (registersOk_iff s).mp hr
    exact (registersOk_iff _).mpr ⟨h1, h2, h3, .inr (resolutionOf_range _), h5⟩
  | setRes n =>
    refine ⟨_, rfl, ?_⟩
    split
    · exact h.raise rfl
    · exact (h.setBufByte (hw (by simp [writesOf])) 4 _).writeScratchpad (hb rfl) (hw (by simp [writesOf]))
  | powerMode b =>
    refine ⟨_, rfl, h.address (hb rfl) (hw (by simp [writesOf])) b fun u hu => ?_⟩
    simp only [readSlot_eq]
    exact (((hu.writeByteSeq (hb rfl) _).issued (hb rfl) _ _ _).setPmode (hw (by simp [writesOf])) _).finish

/-- Settles O8: what a command wrote before its end, and what its end wrote. -/
theorem commandWritesOnlyItsColumns : Obligations.CommandWritesOnlyItsColumns := by
  intro i s
  obtain ⟨t, e, ht⟩ := exec_ends i s
  exact ⟨t, e, mayWrite_eq i ▸ ht.frame⟩

/-! ### The lists of primitives (40_bit_transport.md R140) -/

/-- The prologue comes first in every bus-active command and nowhere else. -/
theorem prims_prologue_first (i : Instr) :
    prims i = [] ∨ prims i = .prologue :: (prims i).tail ∧ .prologue ∉ (prims i).tail := by
  cases i with
  | convert b => cases b <;> decide
  | powerMode b => cases b <;> decide
  | _ => simp [prims, addressPrims]

theorem prims_prologue {i : Instr} {k : Nat} (h : (prims i)[k]? = some .prologue) : k = 0 := by
  rcases prims_prologue_first i with e | ⟨e, hn⟩
  · simp [e] at h
  · cases k with
    | zero => rfl
    | succ k =>
      rw [e, List.getElem?_cons_succ] at h
      exact absurd (List.mem_of_getElem? h) hn

theorem prims_zero {i : Instr} (h : busActive i = true) : (prims i)[0]? = some .prologue := by
  rcases prims_prologue_first i with e | ⟨e, -⟩
  · simp [busActive, e] at h
  · rw [e]
    rfl

/-- Only SEARCH_NEXT has primitives of the search loop. -/
theorem prims_inSearch (i : Instr) : ∀ p ∈ prims i, p.inSearch = true → i = .searchNext := by
  cases i with
  | searchNext => exact fun _ _ _ => rfl
  | convert b => cases b <;> simp [prims, addressPrims, Prim.inSearch]
  | powerMode b => cases b <;> simp [prims, addressPrims, Prim.inSearch]
  | _ => simp [prims, addressPrims, Prim.inSearch]

/-- The search loop is entered from the byte that begins it, and is then passed in order (R207). -/
theorem prims_before_search {i : Instr} {k : Nat} {p q : Prim} (hp : (prims i)[k]? = some p)
    (hq : (prims i)[k + 1]? = some q) (h : q.inSearch = true) :
    p.inSearch = true ∨ i = .searchNext ∧ ∃ v, p = .sendByte v := by
  have hi := prims_inSearch i q (List.mem_of_getElem? hq) h
  subst hi
  match k, hp, hq with
  | 0, hp, hq => cases hq; cases h
  | 1, hp, hq => cases hq; cases h
  | 2, hp, hq => cases hp; exact .inr ⟨rfl, _, rfl⟩
  | 3, hp, hq => cases hp; exact .inl rfl
  | 4, hp, hq => cases hp; exact .inl rfl
  | k + 5, hp, hq => cases hq

theorem prims_searchWrite {i : Instr} {k : Nat} (h : (prims i)[k]? = some .searchWrite) : k = 5 := by
  have hi := prims_inSearch i _ (List.mem_of_getElem? h) rfl
  subst hi
  match k, h with
  | 0, h => cases h
  | 1, h => cases h
  | 2, h => cases h
  | 3, h => cases h
  | 4, h => cases h
  | 5, h => rfl
  | k + 6, h => cases h

/-- No primitive of a command has more than nine bytes (R30, R101). -/
theorem prims_bytes (i : Instr) (hi : i.wf = true) : ∀ p ∈ prims i, p.bytes ≤ 9 := by
  have hc {n : Byte} (h : countOk n = true) : n.toNat ≤ 9 := by
    simp only [countOk, Bool.and_eq_true, decide_eq_true_eq] at h
    exact h.2
  cases i with
  | readBytes n => simpa [prims, Prim.bytes] using hc hi
  | writeBytes n => simpa [prims, Prim.bytes] using hc hi
  | convert b => cases b <;> simp [prims, addressPrims, Prim.bytes]
  | powerMode b => cases b <;> simp [prims, addressPrims, Prim.bytes]
  | _ => simp [prims, addressPrims, Prim.bytes]

/-! ### A decoded command is well formed (30_encoding.md R101, R104) -/

/-- What a format makes of an operand it accepts is a command. -/
def Shape.Sound : Shape → Prop
  | .N i => i.wf = true
  | .F mk => ∀ b, (mk b).wf = true
  | .I mk => ∀ v, (mk v).wf = true
  | .C mk => ∀ n, countOk n = true → (mk n).wf = true
  | .B mk => ∀ n, resolutionOk n = true → (mk n).wf = true

theorem opcodeMap_sound : ∀ r ∈ opcodeMap, Shape.Sound r.shape := by
  simp [opcodeMap, opcodeMapTransport, opcodeMapCrcSearchBus, opcodeMapDs18x20, Shape.Sound, Instr.wf]

theorem Shape.Sound.operand_wf {x : Shape} (hx : Shape.Sound x) {arg : Byte} {i : Instr}
    (h : x.operand arg = .ok i) : i.wf = true := by
  cases x with
  | N j => simp only [Shape.operand] at h; split at h <;> cases h; exact hx
  | F mk => simp only [Shape.operand] at h; split at h <;> cases h; exact hx _
  | I mk => cases h; exact hx _
  | C mk => simp only [Shape.operand] at h; split at h <;> cases h; exact hx _ ‹_›
  | B mk => simp only [Shape.operand] at h; split at h <;> cases h; exact hx _ ‹_›

theorem decode_wf {w : Word} {i : Instr} (h : decode w = .ok i) : i.wf = true := by
  unfold decode at h
  split at h
  · cases h
  · split at h
    · cases h
    · next r hr => exact (opcodeMap_sound r (List.mem_of_find?_eq_some hr)).operand_wf h

theorem decode_high {w : Word} {i : Instr} (h : decode w = .ok i) : w.extractLsb' 16 16 = 0 := by
  by_contra hw
  rw [decode, if_pos hw] at h
  cases h

theorem running_eq_some {s : State} {i : Instr} (h : running s = some i) :
    decode (commandWord s.opc s.arg) = .ok i := by
  unfold running at h
  cases e : decode (commandWord s.opc s.arg) with
  | error x => rw [e] at h; cases h
  | ok j => rw [e] at h; cases h; rfl

theorem running_wf {s : State} {i : Instr} (h : running s = some i) : i.wf = true :=
  decode_wf (running_eq_some h)

/-- The command that `accept` has put into OPC and ARG is the one the word encodes (R281). -/
theorem running_accept {w : Word} {i : Instr} (h : decode w = .ok i) (s : State) :
    running (accept w s) = some i := by
  have e : commandWord (accept w s).opc (accept w s).arg = w := commandWord_fields w (decode_high h)
  rw [running, e, h]
  rfl

/-! ### The levels of a slot (R160) -/

/-- Levels of a slot that change at the boundaries a and b and are released from b on. -/
def stagedLevels (a b : Nat) (l1 l2 : Bool × Bool) (t : Nat) : Bool × Bool :=
  if t < a then l1 else if t < b then l2 else (true, false)

/-- The levels of `ow_out` and `crit` right before boundary t of a slot: released before the first one. -/
def SlotKind.levelsBefore (k : SlotKind) (t : Nat) : Bool × Bool :=
  if t = 0 then (true, false) else k.levelsAt (t - 1)

/-- The levels of the ports `ow_out` and `crit`. -/
def State.levels (s : State) : Bool × Bool := (s.owOut, s.crit)

theorem levels_iff {s : State} {o c : Bool} : s.levels = (o, c) ↔ s.owOut = o ∧ s.crit = c := Prod.mk_inj

theorem levelsAt_three_segments {k : SlotKind} {a b c : Nat} {l1 l2 : Bool × Bool}
    (h : k.segments = [⟨0, a, l1.1, l1.2⟩, ⟨a, b, l2.1, l2.2⟩, ⟨b, c, true, false⟩]) :
    k.levelsAt = stagedLevels a b l1 l2 := by
  funext t
  rw [SlotKind.levelsAt, h, stagedLevels]
  by_cases h1 : t < a
  · simp [h1]
  · by_cases h2 : t < b
    · simp [h1, h2, Nat.le_of_not_lt h1]
    · by_cases h3 : t < c <;> simp [h1, h2, h3, Nat.le_of_not_lt h2]

theorem levelsAt_gap (t : Nat) : SlotKind.gap.levelsAt t = (true, false) := by
  by_cases h : t < 1 <;> simp [SlotKind.levelsAt, SlotKind.segments, h]

theorem levelsAt_reset : SlotKind.reset.levelsAt = stagedLevels 480 540 (false, false) (true, true) :=
  levelsAt_three_segments rfl

theorem levelsAt_read : SlotKind.read.levelsAt = stagedLevels 2 8 (false, true) (true, true) :=
  levelsAt_three_segments rfl

/-- A write of 0 has two segments: its level does not change at the boundary T_WRLOW. -/
theorem levelsAt_write (b : Bool) :
    (SlotKind.write b).levelsAt = stagedLevels 2 62 (false, true) (b, true) := by
  cases b with
  | true => exact levelsAt_three_segments rfl
  | false =>
    funext t
    rw [stagedLevels]
    by_cases h1 : t < 62
    · simp [SlotKind.levelsAt, SlotKind.segments, h1]
    · have h2 : ¬ t < 2 := by omega
      by_cases h3 : t < 64 <;>
        simp [SlotKind.levelsAt, SlotKind.segments, h1, h2, h3, Nat.le_of_not_lt h1]

theorem levelsBefore_gap (t : Nat) : SlotKind.gap.levelsBefore t = (true, false) := by
  simp [SlotKind.levelsBefore, levelsAt_gap]

/-- At the end of a slot the line is released (R154). -/
theorem levelsBefore_length (k : SlotKind) (s : State) : k.levelsBefore (k.length s) = (true, false) := by
  cases k with
  | gap => exact levelsBefore_gap _
  | reset => exact congrFun levelsAt_reset 959
  | read => exact congrFun levelsAt_read 47
  | write b => exact congrFun (levelsAt_write b) 63

/-- Actions at the boundaries 0, a and b that bring the levels of a slot bring them at every boundary. -/
theorem stagedActions_levels {a b t : Nat} {l1 l2 : Bool × Bool} {f0 f1 f2 : State → State} {s : State}
    (ha : 0 < a) (hab : a < b)
    (h0 : ∀ u, u.levels = (true, false) → (f0 u).levels = l1)
    (h1 : ∀ u, u.levels = l1 → (f1 u).levels = l2)
    (h2 : ∀ u, u.levels = l2 → (f2 u).levels = (true, false))
    (h : s.levels = if t = 0 then (true, false) else stagedLevels a b l1 l2 (t - 1)) :
    (atBoundary b t f2 (atBoundary a t f1 (atBoundary 0 t f0 s))).levels = stagedLevels a b l1 l2 t := by
  unfold stagedLevels at h ⊢
  by_cases ht : t = 0
  · rw [if_pos ht] at h
    rw [atBoundary_ne _ _ (by omega), atBoundary_ne _ _ (by omega), ht, atBoundary_eq, if_pos ha, h0 s h]
  · rw [if_neg ht] at h
    rw [atBoundary_ne f0 _ ht]
    by_cases hta : t = a
    · rw [if_pos (by omega)] at h
      rw [atBoundary_ne _ _ (by omega), hta, atBoundary_eq, if_neg (by omega), if_pos hab, h1 s h]
    · rw [atBoundary_ne f1 _ hta]
      by_cases htb : t = b
      · rw [if_neg (by omega), if_pos (by omega)] at h
        rw [htb, atBoundary_eq, if_neg (by omega), if_neg (by omega), h2 s h]
      · rw [atBoundary_ne f2 _ htb, h]
        have ea : t - 1 < a ↔ t < a := by omega
        have eb : t - 1 < b ↔ t < b := by omega
        simp only [ea, eb]

theorem takePresence_levels (s : State) : (takePresence s).levels = (s.owOut, false) := by
  rw [takePresence_eq]
  rfl

theorem takeBit_levels (p : Prim) (s : State) : (p.takeBit s).levels = (s.owOut, false) := by
  rw [takeBit_eq]
  cases p <;> rfl

/-- Each boundary brings the levels that R160 gives from it on. -/
theorem boundaryAction_levels {p : Prim} {t : Nat} {s : State}
    (h : s.levels = (p.slotKind s).levelsBefore t) :
    (boundaryAction p t s).levels = (p.slotKind s).levelsAt t := by
  unfold boundaryAction
  cases hk : p.slotKind s with
  | gap =>
    rw [hk, levelsBefore_gap] at h
    rw [levelsAt_gap, ← h]
    exact (apply_ite State.levels _ _ _).trans (ite_self _)
  | reset =>
    rw [hk, SlotKind.levelsBefore, levelsAt_reset] at h
    rw [levelsAt_reset]
    refine stagedActions_levels (by decide) (by decide) (fun u hu => ?_) (fun u _ => rfl) (fun u hu => ?_) h
    · exact levels_iff.mpr ⟨rfl, (levels_iff.mp hu).2⟩
    · rw [takePresence_levels, (levels_iff.mp hu).1]
  | read =>
    rw [hk, SlotKind.levelsBefore, levelsAt_read] at h
    rw [levelsAt_read]
    refine stagedActions_levels (by decide) (by decide) (fun u _ => rfl) (fun u hu => ?_) (fun u hu => ?_) h
    · exact levels_iff.mpr ⟨rfl, (levels_iff.mp hu).2⟩
    · rw [takeBit_levels, (levels_iff.mp hu).1]
  | write b =>
    rw [hk, SlotKind.levelsBefore, levelsAt_write] at h
    rw [levelsAt_write]
    refine stagedActions_levels (by decide) (by decide) (fun u _ => rfl) (fun u hu => ?_) (fun u _ => rfl) h
    exact levels_iff.mpr ⟨rfl, (levels_iff.mp hu).2⟩

/-! ### What a boundary keeps -/

theorem atBoundary_keeps {α : Type} (g : State → α) (b t : Nat) {f : State → State}
    (hf : ∀ u, g (f u) = g u) (s : State) : g (atBoundary b t f s) = g s := by
  unfold atBoundary
  split
  · exact hf s
  · rfl

/-- What every single update of a slot's boundaries keeps, a boundary keeps. -/
theorem boundaryAction_keeps {α : Type} (g : State → α) (p : Prim) (t : Nat) (s : State)
    (hspul : p.slotKind s = .gap → ∀ u, g (setSpul false u) = g u)
    (howOut : ∀ b u, g (setOwOut b u) = g u) (hcrit : ∀ b u, g (setCrit b u) = g u)
    (hpresence : ∀ b u, g (setPresence b u) = g u) (hsample : ∀ u : State, g (u.skipSamples 1) = g u)
    (hstore : p.slotKind s = .read → ∀ b u, g (p.storeBit b u) = g u) :
    g (boundaryAction p t s) = g s := by
  have htp (u : State) : g (takePresence u) = g u := by
    rw [takePresence_eq, hpresence, hcrit, hsample]
  unfold boundaryAction
  cases hk : p.slotKind s with
  | gap => exact atBoundary_keeps g _ _ (hspul hk) s
  | reset =>
    simp only
    rw [atBoundary_keeps g _ _ htp, atBoundary_keeps g _ _ fun u => ?_, atBoundary_keeps g _ _ (howOut _)]
    rw [howOut, hcrit]
  | read =>
    have htb (u : State) : g (p.takeBit u) = g u := by
      rw [takeBit_eq, hstore hk, hcrit, hsample]
    simp only
    rw [atBoundary_keeps g _ _ htb, atBoundary_keeps g _ _ (howOut _), atBoundary_keeps g _ _ fun u => ?_]
    rw [howOut, hcrit]
  | write b =>
    simp only
    rw [atBoundary_keeps g _ _ fun u => ?_, atBoundary_keeps g _ _ (howOut _),
      atBoundary_keeps g _ _ fun u => ?_]
    all_goals rw [howOut, hcrit]

theorem slotKind_read {p : Prim} {s : State} (h : p.slotKind s = .read) (u : State) :
    p.slotKind u = .read := by
  cases p <;> simp [Prim.slotKind] at h ⊢

theorem slotKind_gap {p : Prim} {s : State} (h : p.slotKind s = .gap) : p = .prologue := by
  cases p <;> simp [Prim.slotKind] at h ⊢

/-- No boundary changes what is written in a write slot. -/
theorem boundaryAction_slotKind (p : Prim) (t : Nat) (s : State) :
    p.slotKind (boundaryAction p t s) = p.slotKind s :=
  boundaryAction_keeps p.slotKind p t s (fun _ u => by cases p <;> rfl) (fun b u => by cases p <;> rfl)
    (fun b u => by cases p <;> rfl) (fun b u => by cases p <;> rfl) (fun u => by cases p <;> rfl)
    (fun hk b u => (slotKind_read hk _).trans (slotKind_read hk u).symm)

theorem boundaryAction_hold (p : Prim) (t : Nat) (s : State) : (boundaryAction p t s).hold = s.hold :=
  boundaryAction_keeps State.hold p t s (fun _ _ => rfl) (fun _ _ => rfl) (fun _ _ => rfl) (fun _ _ => rfl)
    (fun _ => rfl) (fun _ b u => by cases p <;> rfl)

theorem boundaryAction_pos (p : Prim) (t : Nat) (s : State) : (boundaryAction p t s).pos = s.pos :=
  boundaryAction_keeps State.pos p t s (fun _ _ => rfl) (fun _ _ => rfl) (fun _ _ => rfl) (fun _ _ => rfl)
    (fun _ => rfl) (fun _ b u => by cases p <;> rfl)

theorem boundaryAction_registersOk (p : Prim) (t : Nat) (s : State) :
    (boundaryAction p t s).registersOk = s.registersOk :=
  boundaryAction_keeps State.registersOk p t s (fun _ _ => rfl) (fun _ _ => rfl) (fun _ _ => rfl)
    (fun _ _ => rfl) (fun _ => rfl) (fun _ b u => by cases p <;> rfl)

/-- SPUL falls at boundary 0 of the prologue (R141) and does not change elsewhere. -/
theorem boundaryAction_spul {p : Prim} {t : Nat} {s : State}
    (h : s.spul = false ∨ p = .prologue ∧ t = 0) : (boundaryAction p t s).spul = false := by
  rcases h with h | ⟨rfl, rfl⟩
  · by_cases hp : p = .prologue
    · subst hp
      simp only [boundaryAction, Prim.slotKind, atBoundary]
      split
      · rfl
      · exact h
    · rw [← h]
      exact boundaryAction_keeps State.spul p t s (fun hk => absurd (slotKind_gap hk) hp)
        (fun _ _ => rfl) (fun _ _ => rfl) (fun _ _ => rfl) (fun _ => rfl) (fun _ b u => by cases p <;> rfl)
  · rfl

/-! ### A running command between and at its boundaries (10_state.md R49) -/

/-- The command i runs at tick level and no slot is on the line. -/
structure Quiet (i : Instr) (s : State) : Prop where
  busy : s.busy = true
  hold : s.hold = none
  run : running s = some i
  rests : Rests s

/-- The command i runs at tick level, between two slots: SPUL is 0 since its prologue (R141). -/
structure Between (i : Instr) (s : State) : Prop extends Quiet i s where
  spul : s.spul = false

/-- The sequencer stands in the primitive p of the running command i, its counters in range. -/
structure InPrim (i : Instr) (p : Prim) (s : State) : Prop where
  busy : s.busy = true
  hold : s.hold = none
  run : running s = some i
  regs : s.registersOk = true
  prim : (prims i)[s.stepIx]? = some p
  bitIx : s.bitIx ≤ 7
  byteIx : s.byteIx ≤ 8
  noBytes : p.bytes = 0 → s.bitIx = 0 ∧ s.byteIx = 0
  someBytes : p.bytes ≠ 0 → s.byteIx < p.bytes
  pos : p.inSearch = true → 1 ≤ s.pos.toNat

/-- The next pulse is the boundary TCNT of the primitive p: the levels are those before it, and SPUL is 0
except before boundary 0 of the prologue (R141). -/
structure Due (i : Instr) (p : Prim) (s : State) : Prop extends InPrim i p s where
  tcnt : s.tcnt ≤ (p.slotKind s).length s
  levels : s.levels = (p.slotKind s).levelsBefore s.tcnt
  spul : s.spul = false ∨ p = .prologue ∧ s.tcnt = 0

theorem Due.of_sequencerOk {s : State} (hb : s.busy = true) (hh : s.hold = none)
    (hr : s.registersOk = true) (h : s.sequencerOk = true) :
    ∃ i p, Due i p s := by
  unfold State.sequencerOk at h
  split at h
  · cases h
  next i hi =>
  split at h
  · cases h
  next p hp =>
  simp only [Bool.and_eq_true, Bool.or_eq_true, decide_eq_true_eq, Bool.not_eq_true'] at h
  obtain ⟨⟨⟨⟨⟨⟨ht, hbit⟩, hbyte⟩, hno⟩, hsome⟩, hpos⟩, hlev⟩ := h
  have hin : InPrim i p s := by
    refine ⟨hb, hh, hi, hr, hp, hbit, hbyte, hno.resolve_left ∘ not_not_intro, hsome.resolve_left,
      fun hs => ?_⟩
    exact hpos.resolve_left (by simp [hs])
  refine ⟨i, p, hin, ht, ?_, ?_⟩
  · split at hlev
    · next hpro =>
      subst hpro
      simp only [Bool.and_eq_true, Bool.not_eq_true', decide_eq_true_eq] at hlev
      obtain ⟨⟨⟨-, ho⟩, hc⟩, -⟩ := hlev
      exact (levels_iff.mpr ⟨ho, hc⟩).trans (levelsBefore_gap _).symm
    · simp only [Bool.and_eq_true, decide_eq_true_eq, beq_iff_eq] at hlev
      obtain ⟨⟨h1, -⟩, hl⟩ := hlev
      rw [SlotKind.levelsBefore, if_neg (by omega)]
      exact hl
  · split at hlev
    · next hpro =>
      simp only [Bool.and_eq_true, Bool.or_eq_true, decide_eq_true_eq, Bool.not_eq_true'] at hlev
      exact hlev.2.symm.imp id fun h0 => ⟨hpro, h0⟩
    · simp only [Bool.and_eq_true, Bool.not_eq_true'] at hlev
      exact .inl hlev.1.2

theorem Due.ok {i : Instr} {p : Prim} {s : State} (h : Due i p s) (h0 : p = .prologue ∨ 1 ≤ s.tcnt) :
    s.ok = true := by
  obtain ⟨⟨hb, hh, hi, hr, hp, hbit, hbyte, hno, hsome, hpos⟩, ht, hl, hs⟩ := h
  have hseq : s.sequencerOk = true := by
    simp only [State.sequencerOk, hi, hp, Bool.and_eq_true, Bool.or_eq_true, decide_eq_true_eq,
      Bool.not_eq_true']
    refine ⟨⟨⟨⟨⟨⟨ht, hbit⟩, hbyte⟩, ?_⟩, ?_⟩, ?_⟩, ?_⟩
    · by_cases h0 : p.bytes = 0
      · exact .inr (hno h0)
      · exact .inl h0
    · by_cases h0 : p.bytes = 0
      · exact .inl h0
      · exact .inr (hsome h0)
    · cases h0 : p.inSearch
      · exact .inl rfl
      · exact .inr (hpos h0)
    · split
      · next hpro =>
        subst hpro
        obtain ⟨ho, hc⟩ := levels_iff.mp (hl.trans (levelsBefore_gap _))
        simp only [ho, hc, prims_prologue hp, Bool.and_eq_true, Bool.or_eq_true, decide_eq_true_eq]
        exact ⟨⟨⟨trivial, trivial⟩, rfl⟩, hs.symm.imp And.right fun h => by rw [h]; rfl⟩
      · next hpro =>
        have h1 := h0.resolve_left hpro
        have hl' := hl
        rw [SlotKind.levelsBefore, if_neg (by omega)] at hl'
        have hspul := hs.resolve_right fun h => hpro h.1
        simp only [hspul, Bool.and_eq_true, decide_eq_true_eq, beq_iff_eq]
        exact ⟨⟨h1, rfl⟩, hl'⟩
  simp only [State.ok, hr, hb, hh, hseq, if_true, Bool.and_self]

/-! ### The end of a slot -/

/-- What the end boundary of a slot leads to: boundary 0 of the next slot is due at once, or the command has
ended and the invariant holds. -/
def Continues (i : Instr) (s : State) : Prop :=
  (∃ p, p ≠ .prologue ∧ s.tcnt = 0 ∧ Due i p s) ∨ s.busy = false ∧ s.ok = true

/-- The last lines of a command at tick level (R147 to R262). -/
theorem complete_ends (i : Instr) (s : State) :
    Ends (busFields ++ [.crc, .srom, .ldisc, .found]) s (complete i s) := by
  have h := Keeps.refl (busFields ++ [.crc, .srom, .ldisc, .found]) s
  have hp := (h.assertPullUp (List.subset_append_left _ _)).finish
  cases i with
  | reset =>
    simp only [complete]
    split
    · exact h.finish
    · exact h.raise rfl
  | convert b => exact hp
  | writeSpad => exact hp
  | setRes n => exact hp
  | readSpad => exact h.checkScratchpad (by decide)
  | searchNext => exact (h.update (commitSearch_frame s) (by decide) Rests.commitSearch).finish
  | _ => exact h.finish

theorem Between.raise_continues {i : Instr} {s : State} (h : Between i s) {c : Cause} {n : Pos}
    (hc : c.infoLegal n = true) : Continues i (raise c n s) :=
  .inr ⟨rfl, h.rests.endCommand_ok hc⟩

/-- The primitive p begins its byte k. -/
theorem Quiet.beginByte_due {i : Instr} {p : Prim} {s : State} {k : Nat} (h : Quiet i s)
    (hp : (prims i)[s.stepIx]? = some p) (hk : k ≤ 8) (hno : p.bytes = 0 → k = 0)
    (hsome : p.bytes ≠ 0 → k < p.bytes) (hpos : p.inSearch = true → 1 ≤ s.pos.toNat)
    (hs : s.spul = false ∨ p = .prologue) : Due i p (beginByte p k s) where
  busy := h.busy
  hold := h.hold
  run := h.run
  regs := h.rests.1
  prim := hp
  bitIx := Nat.zero_le _
  byteIx := hk
  noBytes := fun h0 => ⟨rfl, hno h0⟩
  someBytes := hsome
  pos := hpos
  tcnt := Nat.zero_le _
  levels := Prod.ext h.rests.2.1 h.rests.2.2
  spul := hs.imp id fun e => ⟨e, rfl⟩

/-- On to a later primitive, or to the end of the command. -/
theorem Between.goTo_continues {i : Instr} {s : State} {k : Nat} (h : Between i s) (hk : k ≠ 0)
    (hpos : ∀ q, (prims i)[k]? = some q → q.inSearch = true → 1 ≤ s.pos.toNat) :
    Continues i (goTo i k s) := by
  unfold goTo
  split
  · obtain ⟨h1, h2⟩ := (complete_ends i s).ok h.rests
    exact .inr ⟨h2, h1⟩
  · next q hq =>
    refine .inl ⟨q, fun e => hk (prims_prologue (e ▸ hq)), rfl, ?_⟩
    have h' : Between i (setStepIx k s) := ⟨⟨h.busy, h.hold, h.run, h.rests⟩, h.spul⟩
    exact h'.beginByte_due hq (Nat.zero_le _) (fun _ => rfl) Nat.pos_of_ne_zero (hpos q hq) (.inl h.spul)

/-- A whole primitive has ended (R207, R209, R210 for SEARCH_NEXT). -/
theorem Between.nextPrim_continues {i : Instr} {p : Prim} {s : State} (h : Between i s)
    (hp : (prims i)[s.stepIx]? = some p) (hpos : p.inSearch = true → 1 ≤ s.pos.toNat) :
    Continues i (nextPrim i p s) := by
  have hn : s.stepIx + 1 ≠ 0 := Nat.succ_ne_zero _
  have hgo (hs : ∀ v, i = .searchNext → p ≠ .sendByte v) (t : State) (ht : Between i t)
      (he : t.pos = s.pos) : Continues i (goTo i (s.stepIx + 1) t) := by
    refine ht.goTo_continues hn fun q hq hin => ?_
    rcases prims_before_search hp hq hin with h1 | ⟨h1, v, h2⟩
    · rw [he]
      exact hpos h1
    · exact absurd h2 (hs v h1)
  obtain ⟨-, -, hpos64, -⟩ := (registersOk_iff s).mp h.rests.1
  cases p with
  | reset =>
    simp only [nextPrim]
    split
    · exact hgo (fun v _ => by simp) s h rfl
    · split
      · exact .inr ⟨rfl, (h.rests.setLdisc (Nat.zero_le _)).endCommand_ok rfl⟩
      · exact h.raise_continues rfl
  | readBit =>
    simp only [nextPrim]
    split
    · exact hgo (fun v _ => by simp) _ ⟨⟨h.busy, h.hold, h.run, h.rests⟩, h.spul⟩ rfl
    · exact hgo (fun v _ => by simp) _ ⟨⟨h.busy, h.hold, h.run, h.rests⟩, h.spul⟩ rfl
  | sendByte v =>
    simp only [nextPrim]
    split
    · have hr : Rests (setPosition 64 (clearWork s)) := h.rests.clearWork.setPosition (Nat.le_refl _)
      exact Between.goTo_continues ⟨⟨h.busy, h.hold, h.run, hr⟩, h.spul⟩ hn fun _ _ _ =>
        (by decide : 1 ≤ (BitVec.ofNat 7 64).toNat)
    · next hi => exact hgo (fun v h => absurd h hi) s h rfl
  | searchComp =>
    simp only [nextPrim]
    split
    · refine h.raise_continues ?_
      simp only [Cause.infoLegal, hpos rfl, hpos64, decide_true, Bool.and_self]
    · exact hgo (fun v _ => by simp) s h rfl
  | searchWrite =>
    have ht : Between i (recordChoice s) := ⟨⟨h.busy, h.hold, h.run, h.rests.recordChoice⟩, h.spul⟩
    have he : (recordChoice s).pos = s.pos := rfl
    simp only [nextPrim, he]
    split
    · exact hgo (fun v _ => by simp) _ ht rfl
    · next hlt =>
      have h64 : s.pos.toNat - 1 ≤ 64 := by omega
      have h5 := prims_searchWrite hp
      have hr := ht.rests.setPosition h64
      refine Between.goTo_continues ⟨⟨h.busy, h.hold, h.run, hr⟩, h.spul⟩ (by omega) fun _ _ _ => ?_
      rw [setPosition_pos, toNat_ofNat_position h64]
      omega
  | _ => exact hgo (fun v _ => by simp) s h rfl

theorem InPrim.recordSlot_between {i : Instr} {p : Prim} {s : State} (h : InPrim i p s)
    (hl : s.levels = (true, false)) (hs : s.spul = false) (xs : List Slot) (len : Nat) :
    Between i (recordSlot xs len s) :=
  ⟨⟨h.busy, h.hold, h.run, ⟨h.regs, levels_iff.mp hl⟩⟩, hs⟩

theorem Between.storeByte {i : Instr} {s : State} (h : Between i s) (p : Prim) :
    Between i (storeByte p s) := by
  obtain ⟨⟨h1, h2, h3, h4⟩, h5⟩ := h
  cases p <;> exact ⟨⟨h1, h2, h3, h4⟩, h5⟩

theorem storeByte_place (p : Prim) (s : State) :
    (storeByte p s).stepIx = s.stepIx ∧ (storeByte p s).byteIx = s.byteIx ∧
      (storeByte p s).pos = s.pos := by
  cases p <;> exact ⟨rfl, rfl, rfl⟩

/-- The end boundary of a slot (R140): the next primitive, the next bit, the next byte, or the end. -/
theorem InPrim.endSlot_continues {i : Instr} {p : Prim} {s : State} (h : InPrim i p s)
    (hl : s.levels = (true, false)) (hs : s.spul = false) : Continues i (endSlot i p s) := by
  unfold endSlot
  generalize endedSlot p s = xs
  generalize (p.slotKind s).length s = len
  have hb := h.recordSlot_between hl hs xs len
  dsimp only
  split
  · exact hb.nextPrim_continues h.prim h.pos
  next h0 =>
  have hpro : p ≠ .prologue := fun e => h0 (e ▸ rfl)
  split
  · next h7 =>
    refine .inl ⟨p, hpro, rfl, ⟨h.busy, h.hold, h.run, h.regs, h.prim, h7, h.byteIx, fun e => absurd e h0,
      h.someBytes, h.pos⟩, Nat.zero_le _, hl, .inl hs⟩
  · have hu := hb.storeByte p
    obtain ⟨e1, e2, e3⟩ := storeByte_place p (recordSlot xs len s)
    have hp : (prims i)[(storeByte p (recordSlot xs len s)).stepIx]? = some p := by
      rw [e1]
      exact h.prim
    have hpos (hin : p.inSearch = true) : 1 ≤ (storeByte p (recordSlot xs len s)).pos.toNat := by
      rw [e3]
      exact h.pos hin
    split
    · next hlt =>
      have h9 := prims_bytes i (running_wf h.run) p (List.mem_of_getElem? h.prim)
      exact .inl ⟨p, hpro, rfl, hu.beginByte_due hp (by omega) (fun e => absurd e h0) (fun _ => hlt) hpos
        (.inl hu.spul)⟩
    · exact hu.nextPrim_continues hp hpos

/-! ### One pulse -/

theorem InPrim.congr {i : Instr} {p : Prim} {s t : State} (h : InPrim i p s) (hp : samePlace s t)
    (hh : t.hold = s.hold) (hr : t.registersOk = s.registersOk) (hpos : t.pos = s.pos) : InPrim i p t := by
  obtain ⟨e1, e2, e3, e4, e5, -, e7, -⟩ := hp
  have hrun : running t = running s := by rw [running, running, e1, e2]
  exact {
    busy := e7.trans h.busy
    hold := hh.trans h.hold
    run := hrun.trans h.run
    regs := hr.trans h.regs
    prim := by rw [e3, h.prim]
    bitIx := e5 ▸ h.bitIx
    byteIx := e4 ▸ h.byteIx
    noBytes := by rw [e4, e5]; exact h.noBytes
    someBytes := by rw [e4]; exact h.someBytes
    pos := by rw [hpos]; exact h.pos }

/-- The boundary that is due leaves the sequencer in its primitive, with the levels of R160 and SPUL = 0. -/
theorem Due.boundary_passed {i : Instr} {p : Prim} {s : State} (h : Due i p s) :
    InPrim i p (runBoundary p s) ∧ (runBoundary p s).levels = (p.slotKind s).levelsAt s.tcnt ∧
      (runBoundary p s).spul = false := by
  have hin := h.toInPrim.congr (boundaryAction_place p s.tcnt s) (boundaryAction_hold p s.tcnt s)
    (boundaryAction_registersOk p s.tcnt s) (boundaryAction_pos p s.tcnt s)
  obtain ⟨h1, h2, h3, h4, h5, h6, h7, h8, h9, h10⟩ := hin
  exact ⟨⟨h1, h2, h3, h4, h5, h6, h7, h8, h9, h10⟩, boundaryAction_levels h.levels,
    boundaryAction_spul h.spul⟩

/-- A boundary before the end of the slot: the next one is due. -/
theorem Due.within {i : Instr} {p : Prim} {s : State} (h : Due i p s)
    (hlt : s.tcnt < (p.slotKind s).length s) : Due i p (runBoundary p s) := by
  obtain ⟨hin, hl, hs⟩ := h.boundary_passed
  obtain ⟨-, -, -, -, -, -, -, e8⟩ := boundaryAction_place p s.tcnt s
  have hk : p.slotKind (runBoundary p s) = p.slotKind s := by
    rw [← boundaryAction_slotKind p s.tcnt s]
    cases p <;> rfl
  have hlen := slotLength_congr p s (runBoundary p s) e8
  exact ⟨hin, hlen ▸ hlt, by rw [hl, hk]; rfl, .inl hs⟩

/-- The boundary at the end of the slot (R154): the line is released. -/
theorem Due.atEnd {i : Instr} {p : Prim} {s : State} (h : Due i p s)
    (hle : (p.slotKind s).length s ≤ s.tcnt) : Continues i (endSlot i p (runBoundary p s)) := by
  obtain ⟨hin, hl, hs⟩ := h.boundary_passed
  refine hin.endSlot_continues ?_ hs
  have ht : s.tcnt = (p.slotKind s).length s := Nat.le_antisymm h.tcnt hle
  by_cases hpro : p = .prologue
  · subst hpro
    exact hl.trans (levelsAt_gap _)
  · have e : (runBoundary p s).levels = s.levels := by
      rw [runBoundary, ht, boundaryAction_end p s hpro]
      rfl
    rw [e, h.levels, ht, levelsBefore_length]

/-- Every slot has at least one boundary before its end. -/
theorem slotLength_pos {p : Prim} (hp : p ≠ .prologue) (s : State) : 0 < (p.slotKind s).length s := by
  cases p with
  | prologue => exact absurd rfl hp
  | _ => exact Nat.succ_pos _

theorem Continues.pulse {i : Instr} {s : State} (h : Continues i s) (n : Nat) :
    (if s.busy then pulse (n + 1) s else s).ok = true := by
  rcases h with ⟨p, hp, h0, h⟩ | ⟨hb, hok⟩
  · have hlt : s.tcnt < (p.slotKind s).length s := h0 ▸ slotLength_pos hp s
    rw [h.busy, if_pos rfl, pulse_within n h.run h.prim hlt]
    exact (h.within hlt).ok (.inr (Nat.succ_pos _))
  · rw [hb]
    exact hok

theorem Due.usTick_ok {i : Instr} {p : Prim} {s : State} (h : Due i p s) : (usTick s).ok = true := by
  rcases Nat.lt_or_ge s.tcnt ((p.slotKind s).length s) with hlt | hle
  · rw [usTick_within h.run h.prim hlt]
    exact (h.within hlt).ok (.inr (Nat.succ_pos _))
  · rw [usTick, pulse_end 2 h.run h.prim hle]
    exact (h.atEnd hle).pulse 1

/-! ### The host port and one edge of `clk` -/

theorem ok_eq_of_idle {s : State} (hb : s.busy = false) : s.ok = (s.registersOk && s.idleOk) := by
  simp [State.ok, hb]

theorem rests_of_idle {s : State} (h : s.ok = true) (hb : s.busy = false) :
    Rests s ∧ s.hold = none := by
  simp only [ok_eq_of_idle hb, State.idleOk, Bool.and_eq_true, Bool.not_eq_true',
    Option.isNone_iff_eq_none] at h
  obtain ⟨hr, ⟨⟨-, hh⟩, ho⟩, hc⟩ := h
  exact ⟨⟨hr, ho, hc⟩, hh⟩

theorem exec_ok (i : Instr) {s : State} (hs : Rests s) : ∃ t, exec i s = .next t ∧ t.ok = true := by
  obtain ⟨t, e, ht⟩ := exec_ends i s
  exact ⟨t, e, (ht.ok hs).1⟩

/-- A CMD write at slot level (R281, R296): InvalidArgument, or the command. -/
theorem command_ok (w : Word) {s : State} (hs : Rests s) : ∃ t, command w s = .next t ∧ t.ok = true := by
  unfold command
  split
  · next e _ =>
    refine ⟨_, rfl, Rests.endCommand_ok (s := accept w s) hs ?_⟩
    cases e <;> rfl
  · exact exec_ok _ hs

theorem ok_of_hold {s : State} {w : Word} {n : Nat} (hb : s.busy = true) (hh : s.hold = some (w, n))
    (hn : 1 ≤ n) (hs : Rests s) : s.ok = true := by
  obtain ⟨hr, ho, hc⟩ := hs
  simp [State.ok, hb, hh, hn, hr, ho, hc]

/-- A non-bus or refused command at clk level waits N_CYC cycles, or none (R283, log 5). -/
theorem startAtomic_ok (w : Word) {s : State} (hs : Rests s) :
    ∃ t, startAtomic w s = .next t ∧ t.ok = true := by
  unfold startAtomic
  split
  · exact command_ok w hs
  · next h0 => exact ⟨_, rfl, ok_of_hold rfl rfl (Nat.pos_of_ne_zero h0) hs⟩

theorem Quiet.beforePrologue {i : Instr} {s : State} (h : Quiet i s) : Quiet i (beforePrologue i s) := by
  obtain ⟨h1, h2, h3, h4⟩ := h
  cases i with
  | readSpad => exact ⟨h1, h2, h3, h4.setTvalid_false⟩
  | _ => exact ⟨h1, h2, h3, h4⟩

/-- A bus-active command starts with boundary 0 of its prologue due (R140, R281). -/
theorem launch_ok {i : Instr} {w : Word} {s : State} (hd : decode w = .ok i) (hi : busActive i = true)
    (hs : Rests s) (hh : s.hold = none) : (launch i w s).ok = true := by
  have hq : Quiet i (accept w s) := ⟨rfl, hh, running_accept hd s, hs⟩
  obtain ⟨h1, h2, h3, h4⟩ := hq.beforePrologue
  have hq' : Quiet i (setStepIx 0 (beforePrologue i (accept w s))) := ⟨h1, h2, h3, h4⟩
  have h0 := prims_zero hi
  rw [launch, goTo, h0]
  exact (hq'.beginByte_due h0 (Nat.zero_le _) (fun _ => rfl) (fun e => absurd rfl e) (fun e => by cases e)
    (.inr rfl)).ok (.inl rfl)

/-- `HostWrite(0x00, w)` at clk level (R281, R283). -/
theorem startCommand_ok (w : Word) {s : State} (hs : Rests s) (hh : s.hold = none) :
    ∃ t, startCommand w s = .next t ∧ t.ok = true := by
  unfold startCommand
  split
  · exact startAtomic_ok w hs
  · next i hd =>
    split
    · next h =>
      rw [Bool.and_eq_true] at h
      exact ⟨_, rfl, launch_ok hd h.1 hs hh⟩
    · exact startAtomic_ok w hs

/-- A register write reaches CFG, ROM and BUF only (R73). -/
theorem writeReg_cases (a : Addr) (v : Word) (s : State) :
    ∃ r b e, writeReg a v s = { s with spuEn := e, rom := r, buf := b } := by
  unfold writeReg
  dsimp only
  split
  · exact ⟨_, _, _, rfl⟩
  · split
    · exact ⟨_, _, _, rfl⟩
    · split
      · exact ⟨_, _, _, rfl⟩
      · exact ⟨s.rom, s.buf, s.spuEn, rfl⟩

theorem writeReg_ok (a : Addr) (v : Word) {s : State} (h : s.ok = true) (hb : s.busy = false) :
    (writeReg a v s).ok = true := by
  obtain ⟨r, b, e, he⟩ := writeReg_cases a v s
  have hr : (writeReg a v s).registersOk = s.registersOk := by rw [he]; rfl
  have hi : (writeReg a v s).idleOk = s.idleOk := by rw [he]; rfl
  have hb' : (writeReg a v s).busy = false := by rw [he]; exact hb
  rw [ok_eq_of_idle hb', hr, hi, ← ok_eq_of_idle hb]
  exact h

theorem showRead_ok (a : Addr) (s : State) {t : State} (h : t.ok = true) : (showRead a s t).ok = true := by
  obtain ⟨v, n, e⟩ := showRead_cases a s t
  rw [e]
  exact h

theorem readPort_ok (x : Option Access) (s : State) {t : State} (h : t.ok = true) :
    (readPort x s t).ok = true := by
  match x with
  | none => exact h
  | some (.read a) => exact showRead_ok a s h
  | some (.write _ _) => exact h

theorem hostAccess_ok (a : Access) {s : State} (h : s.ok = true) :
    ∃ t, hostAccess a s = .next t ∧ t.ok = true := by
  cases a with
  | read a => exact ⟨_, rfl, showRead_ok a s h⟩
  | write a v =>
    unfold hostAccess
    dsimp only
    split
    · exact ⟨s, rfl, h⟩
    · next hb =>
      rw [Bool.not_eq_true] at hb
      split
      · exact command_ok v (rests_of_idle h hb).1
      · exact ⟨_, rfl, writeReg_ok a v h hb⟩

/-- The engine's own part of an edge: a cycle of N_CYC, the end of the wait, or a pulse (R140, R283). -/
theorem engineEdge_ok (u : Bool) {s : State} (h : s.ok = true) (hb : s.busy = true) :
    ∃ t, engineEdge u s = .next t ∧ t.ok = true := by
  simp only [State.ok, hb, if_true, Bool.and_eq_true] at h
  obtain ⟨hr, h⟩ := h
  unfold engineEdge
  cases hh : s.hold with
  | none =>
    rw [hh] at h
    obtain ⟨i, p, hd⟩ := Due.of_sequencerOk hb hh hr h
    refine ⟨_, rfl, ?_⟩
    split
    · exact hd.usTick_ok
    · simp only [State.ok, hb, hh, hr, if_true, Bool.true_and]
      exact h
  | some x =>
    obtain ⟨w, n⟩ := x
    rw [hh] at h
    simp only [Bool.and_eq_true, decide_eq_true_eq, Bool.not_eq_true'] at h
    obtain ⟨⟨-, ho⟩, hc⟩ := h
    have hs : Rests s := ⟨hr, ho, hc⟩
    dsimp only
    split
    · exact command_ok w hs
    · exact ⟨_, rfl, ok_of_hold (s := setHold (some (w, n - 1)) s) hb rfl (by omega) hs⟩

theorem writeEdge_ok (x : Option Access) {s : State} (h : s.ok = true) (hb : s.busy = false) :
    ∃ t, writeEdge x s = .next t ∧ t.ok = true := by
  match x with
  | none => exact ⟨s, rfl, h⟩
  | some (.read _) => exact ⟨s, rfl, h⟩
  | some (.write a v) =>
    obtain ⟨hs, hh⟩ := rests_of_idle h hb
    unfold writeEdge
    dsimp only
    split
    · exact startCommand_ok v hs hh
    · exact ⟨_, rfl, writeReg_ok a v h hb⟩

theorem resetEngine_ok (s : State) : (resetEngine s).ok = true := by
  have h : (resetEngine s).ok = State.reset.ok := rfl
  rw [h]
  exact invariantHoldsAtReset

theorem clkEdge_ok (c : Cycle) {s : State} (h : s.ok = true) :
    ∃ t, clkEdge c s = .next t ∧ t.ok = true := by
  have he : ∃ t, stateEdge c s = .next t ∧ t.ok = true := by
    unfold stateEdge
    split
    · exact ⟨_, rfl, resetEngine_ok s⟩
    · split
      · next hb => exact engineEdge_ok c.usTick h hb
      · next hb => exact writeEdge_ok c.host h (Bool.not_eq_true _ ▸ hb)
  obtain ⟨t, e, ht⟩ := he
  exact ⟨_, clkEdge_next e, readPort_ok c.host s ht⟩

/-- Settles O22: the invariant is kept by each kind of input, a host access and an edge of `clk`. -/
theorem everyStepKeepsTheInvariant : Obligations.EveryStepKeepsTheInvariant := by
  intro s h
  unfold step
  split
  · exact ⟨s, rfl, h⟩
  · next i rest _ =>
    have ht : (takeInput rest s).ok = true := h
    cases i with
    | access a => exact hostAccess_ok a ht
    | clk c => exact clkEdge_ok c ht

end Sys2Proof.Machine
end

section
/-! PROOFS. The statements about the host register space (20_memory.md R70 to R76): which input a step takes, the
equation of the register map at each address, and what a write or a read does at either level. -/

namespace Sys2Proof.Machine

/-! ### The input of a step -/

theorem step_access {s : State} {a : Access} {rest : List Input} (h : s.inputs = .access a :: rest) :
    step s = hostAccess a (takeInput rest s) := by
  rw [step, h]
  rfl

theorem step_clk {s : State} {c : Cycle} {rest : List Input} (h : s.inputs = .clk c :: rest) :
    step s = clkEdge c (takeInput rest s) := by
  rw [step, h]
  rfl

theorem takeInput_frame (rest : List Input) (s : State) :
    sameExcept [.inputs, .hRdata] s (takeInput rest s) := by
  intro f hf
  cases f <;> simp [Field.same] at hf ⊢

/-! ### Writes (R73, R75) -/

/-- A write does not use the port `h_rdata` (R26). -/
theorem clkEdge_write (r u : Bool) (a : Addr) (v : Word) (s : State) :
    clkEdge ⟨r, u, some (.write a v)⟩ s = stateEdge ⟨r, u, some (.write a v)⟩ s := by
  unfold clkEdge
  cases stateEdge ⟨r, u, some (.write a v)⟩ s <;> rfl

theorem hostAccess_write_busy {s : State} (hb : s.busy = true) (a : Addr) (v : Word) :
    hostAccess (.write a v) s = .next s := if_pos hb

theorem hostAccess_write_cmd {s : State} (hb : s.busy = false) (v : Word) :
    hostAccess (.write 0x00 v) s = command v s := by
  simp [hostAccess, hb]

theorem hostAccess_write_register {s : State} (hb : s.busy = false) {a : Addr} (ha : a ≠ 0x00) (v : Word) :
    hostAccess (.write a v) s = .next (writeReg a v s) := by
  simp only [hostAccess, hb, Bool.false_eq_true, if_false, if_neg ha]

theorem clkEdge_write_register {s : State} (hb : s.busy = false) {a : Addr} (ha : a ≠ 0x00) (u : Bool)
    (v : Word) : clkEdge ⟨false, u, some (.write a v)⟩ s = .next (writeReg a v s) := by
  rw [clkEdge_write]
  simp only [stateEdge, writeEdge, hb, Bool.false_eq_true, if_false, if_neg ha]

theorem writeReg_frame (a : Addr) (v : Word) (s : State) :
    sameExcept [.spuEn, .rom, .buf] s (writeReg a v s) := by
  obtain ⟨r, b, e, h⟩ := writeReg_cases a v s
  rw [h]
  intro f hf
  cases f <;> simp [Field.same] at hf ⊢

/-- CFG takes bit 0 of a word written to 0x03 (R47). -/
theorem writeReg_spuEn (a : Addr) (v : Word) (s : State) :
    (writeReg a v s).spuEn = if a.toNat = 0x03 then v.getLsbD 0 else s.spuEn := by
  unfold writeReg
  dsimp only
  split
  · rfl
  · split
    · rfl
    · split <;> rfl

/-- ROM[k] takes bits 7:0 of a word written to 0x10 + k (R31). -/
theorem byteAt_writeReg_rom (a : Addr) (v : Word) (s : State) {k : Nat} (hk : k < 8) :
    byteAt (writeReg a v s).rom k =
      if a.toNat = 0x10 + k then v.extractLsb' 0 8 else byteAt s.rom k := by
  unfold writeReg
  dsimp only
  split
  · rw [if_neg (by omega)]
  · split
    · have e : k = a.toNat - 0x10 ↔ a.toNat = 0x10 + k := by omega
      simp only [byteAt_setByte _ _ _ _ (show a.toNat - 0x10 < 8 by omega), e]
    · have e : a.toNat ≠ 0x10 + k := by omega
      rw [if_neg e]
      split <;> rfl

/-- BUF[k] takes bits 7:0 of a word written to 0x20 + k (R30). -/
theorem byteAt_writeReg_buf (a : Addr) (v : Word) (s : State) {k : Nat} (hk : k < 9) :
    byteAt (writeReg a v s).buf k =
      if a.toNat = 0x20 + k then v.extractLsb' 0 8 else byteAt s.buf k := by
  unfold writeReg
  dsimp only
  split
  · rw [if_neg (by omega)]
  · split
    · rw [if_neg (by omega)]
    · split
      · have e : k = a.toNat - 0x20 ↔ a.toNat = 0x20 + k := by omega
        simp only [setBufByte_buf, byteAt_setByte _ _ _ _ (show a.toNat - 0x20 < 9 by omega), e]
      · rw [if_neg (by omega)]

/-- Settles O14: at slot level the write is dropped, and at an edge of `clk` the engine does not see it. -/
theorem writesWhileBusyAreDropped : Obligations.WritesWhileBusyAreDropped := by
  intro s a v rest hb
  have hb' : (takeInput rest s).busy = true := hb
  refine ⟨fun h => ?_, fun u h => ?_⟩
  · rw [step_access h, hostAccess_write_busy hb']
    rfl
  · calc step s
        = stateEdge ⟨false, u, some (.write a v)⟩ (takeInput rest s) := by rw [step_clk h, clkEdge_write]
      _ = stateEdge ⟨false, u, none⟩ (takeInput rest s) := stateEdge_busy false u _ _ hb'
      _ = clkEdge ⟨false, u, none⟩ (takeInput rest s) := (clkEdge_quiet false u _).symm
      _ = step { s with inputs := .clk ⟨false, u, none⟩ :: rest } := rfl

/-- Settles O15: a CMD write is `command`, any other one is `writeReg` at both levels. -/
theorem hostWriteReachesItsRegisterOnly : Obligations.HostWriteReachesItsRegisterOnly := by
  refine ⟨fun s v rest hb h => ?_, fun s a v rest u hb ha h => ?_⟩
  · rw [step_access h, hostAccess_write_cmd (s := takeInput rest s) hb, command]
    cases decode v <;> rfl
  · have hb' : (takeInput rest s).busy = false := hb
    have e : step s = .next (writeReg a v (takeInput rest s)) := by
      rcases h with h | h
      · rw [step_access h, hostAccess_write_register hb' ha]
      · rw [step_clk h, clkEdge_write_register hb' ha]
    have hw := writeReg_frame a v (takeInput rest s)
    refine ⟨_, e, (hw .inputs (by simp)).symm, (hw .hRdata (by simp)).symm, writeReg_spuEn a v _,
      fun k hk => byteAt_writeReg_rom a v _ hk, fun k hk => byteAt_writeReg_buf a v _ hk, ?_⟩
    exact ((takeInput_frame rest s).mono (by simp)).trans (hw.mono (by simp))

/-! ### The register map, address by address (R71, R72) -/

section
variable {a : Addr} (s : State)

theorem readReg_cmd (h : a.toNat = 0x00) : readReg a s = 0 := by simp [readReg, h]

theorem readReg_status (h : a.toNat = 0x01) : readReg a s = s.statusWord := by simp [readReg, h]

theorem readReg_cause (h : a.toNat = 0x02) : readReg a s = s.causeWord := by simp [readReg, h]

theorem readReg_cfg (h : a.toNat = 0x03) : readReg a s = flagAt s.spuEn 0 := by simp [readReg, h]

theorem readReg_data (h : a.toNat = 0x04) : readReg a s = s.data.setWidth 32 := by simp [readReg, h]

theorem readReg_crc (h : a.toNat = 0x05) : readReg a s = s.crc.setWidth 32 := by simp [readReg, h]

theorem readReg_ldisc (h : a.toNat = 0x06) : readReg a s = s.ldisc.setWidth 32 := by simp [readReg, h]

theorem readReg_res (h : a.toNat = 0x07) : readReg a s = s.res.setWidth 32 := by simp [readReg, h]

theorem readReg_tnum (h : a.toNat = 0x08) : readReg a s = s.tnum := by simp [readReg, h]

theorem readReg_tden (h : a.toNat = 0x09) : readReg a s = s.tden.setWidth 32 := by simp [readReg, h]

theorem readReg_tc100 (h : a.toNat = 0x0A) : readReg a s = s.tc100 := by simp [readReg, h]

theorem readReg_rom {k : Nat} (hk : k < 8) (h : a.toNat = 0x10 + k) :
    readReg a s = (byteAt s.rom k).setWidth 32 := by
  simp (disch := omega) only [readReg, h, if_neg, if_pos, Nat.add_sub_cancel_left]

theorem readReg_srom {k : Nat} (hk : k < 8) (h : a.toNat = 0x18 + k) :
    readReg a s = (byteAt s.srom k).setWidth 32 := by
  simp (disch := omega) only [readReg, h, if_neg, if_pos, Nat.add_sub_cancel_left]

theorem readReg_buf {k : Nat} (hk : k < 9) (h : a.toNat = 0x20 + k) :
    readReg a s = (byteAt s.buf k).setWidth 32 := by
  simp (disch := omega) only [readReg, h, if_neg, if_pos, Nat.add_sub_cancel_left]

theorem readReg_reserved (h : 0x0B ≤ a.toNat ∧ a.toNat ≤ 0x0F ∨ 0x29 ≤ a.toNat) : readReg a s = 0 := by
  simp (disch := omega) only [readReg, if_neg]

end

theorem readReg_takeInput (a : Addr) (rest : List Input) (s : State) :
    readReg a (takeInput rest s) = readReg a s := rfl

/-! ### Reads with BUSY = 0 (R72) -/

theorem hostAccess_read_idle {s : State} (hb : s.busy = false) (a : Addr) :
    hostAccess (.read a) s = .next (setRdata (readReg a s) s) :=
  congrArg _ (showRead_idle hb a s)

theorem clkEdge_read_idle {s : State} (hb : s.busy = false) (a : Addr) (u : Bool) :
    clkEdge ⟨false, u, some (.read a)⟩ s = .next (setRdata (readReg a s) s) := by
  have e : stateEdge ⟨false, u, some (.read a)⟩ s = .next s := by
    simp only [stateEdge, writeEdge, hb, Bool.false_eq_true, if_false]
  rw [clkEdge_next e, readPort, showRead_idle hb]

theorem toNat_flagAt_zero (b : Bool) : (flagAt b 0).toNat = b.toNat := by cases b <;> rfl

/-- Settles O16: the word is `readReg` at both levels, and `readReg` is read off row by row. -/
theorem hostReadReturnsTheRegister : Obligations.HostReadReturnsTheRegister := by
  intro s a hb
  have hw {n : Nat} (x : BitVec n) (hn : n ≤ 32) : (x.setWidth 32).toNat = x.toNat :=
    BitVec.toNat_setWidth_of_le hn
  have ht (rest : List Input) : (takeInput rest s).busy = false := hb
  refine ⟨readReg a s, hostAccess_read_idle hb a, fun rest h => ?_, fun u rest h => ?_, readReg_cmd s,
    readReg_status s, readReg_cause s, fun h => ?_, fun h => ?_, fun h => ?_, fun h => ?_, fun h => ?_,
    fun h => ?_, fun h => ?_, fun h => ?_, fun k hk h => ?_, fun k hk h => ?_, fun k hk h => ?_,
    readReg_reserved s⟩
  · rw [step_access h, hostAccess_read_idle (ht rest), readReg_takeInput]
    rfl
  · rw [step_clk h, clkEdge_read_idle (ht rest), readReg_takeInput]
    rfl
  · rw [readReg_cfg s h, toNat_flagAt_zero]
  · rw [readReg_data s h, hw _ (by decide)]
  · rw [readReg_crc s h, hw _ (by decide)]
  · rw [readReg_ldisc s h, hw _ (by decide)]
  · rw [readReg_res s h, hw _ (by decide)]
  · rw [readReg_tnum s h]
  · rw [readReg_tden s h, hw _ (by decide)]
  · rw [readReg_tc100 s h]
  · rw [readReg_rom s hk h, hw _ (by decide)]
  · rw [readReg_srom s hk h, hw _ (by decide)]
  · rw [readReg_buf s hk h, hw _ (by decide)]

/-! ### The engine never drives `h_rdata` (R26) -/

theorem hRdata_notMem_mayWrite (i : Instr) : .hRdata ∉ mayWrite i := by
  have hb : .hRdata ∉ if busActive i then busFields else [] := by split <;> decide
  have hw : .hRdata ∉ writesOf i := by cases i <;> simp [writesOf]
  simp only [mayWrite, List.mem_append, hb, hw, or_false]
  decide

theorem exec_hRdata (i : Instr) (s : State) : ∃ t, exec i s = .next t ∧ t.hRdata = s.hRdata := by
  obtain ⟨t, e, h⟩ := commandWritesOnlyItsColumns i s
  exact ⟨t, e, (h .hRdata (hRdata_notMem_mayWrite i)).symm⟩

theorem command_hRdata (w : Word) (s : State) : ∃ t, command w s = .next t ∧ t.hRdata = s.hRdata := by
  unfold command
  split
  · exact ⟨_, rfl, rfl⟩
  · exact exec_hRdata _ (accept w s)

theorem boundaryAction_hRdata (p : Prim) (t : Nat) (s : State) :
    (boundaryAction p t s).hRdata = s.hRdata :=
  boundaryAction_keeps State.hRdata p t s (fun _ _ => rfl) (fun _ _ => rfl) (fun _ _ => rfl)
    (fun _ _ => rfl) (fun _ => rfl) (fun _ b u => by cases p <;> rfl)

theorem goTo_hRdata (i : Instr) (k : Nat) (s : State) : (goTo i k s).hRdata = s.hRdata := by
  unfold goTo
  split
  · exact ((complete_ends i s).frame .hRdata (by decide)).symm
  · rfl

theorem nextPrim_hRdata (i : Instr) (p : Prim) (s : State) : (nextPrim i p s).hRdata = s.hRdata := by
  have hr : (recordChoice s).hRdata = s.hRdata := rfl
  cases p <;> simp [nextPrim, goTo_hRdata, apply_ite State.hRdata, hr]

theorem endSlot_hRdata (i : Instr) (p : Prim) (s : State) : (endSlot i p s).hRdata = s.hRdata := by
  have hs (u : State) : (storeByte p u).hRdata = u.hRdata := by cases p <;> rfl
  simp only [endSlot, apply_ite State.hRdata, nextPrim_hRdata, nextBit_hRdata, beginByte_hRdata, hs,
    recordSlot_hRdata, ite_self]

theorem pulse_hRdata (n : Nat) (s : State) : (pulse n s).hRdata = s.hRdata := by
  induction n generalizing s with
  | zero => rfl
  | succ n ih =>
    unfold pulse
    split
    · rfl
    · next i _ =>
      split
      · rfl
      · next p _ =>
        have hrun : (runBoundary p s).hRdata = s.hRdata := boundaryAction_hRdata p s.tcnt s
        have hend := (endSlot_hRdata i p (runBoundary p s)).trans hrun
        dsimp only
        split
        · exact hrun
        · split
          · exact (ih _).trans hend
          · exact hend

/-- At an edge a busy engine has a next state, whatever the state it is in, and leaves `h_rdata` alone. -/
theorem engineEdge_hRdata (u : Bool) (s : State) :
    ∃ t, engineEdge u s = .next t ∧ t.hRdata = s.hRdata := by
  unfold engineEdge
  split
  · split
    · exact command_hRdata _ s
    · exact ⟨_, rfl, rfl⟩
  · refine ⟨_, rfl, ?_⟩
    split
    · exact pulse_hRdata 3 s
    · rfl

/-- So `h_rdata` of an edge with BUSY = 1 and no read is not valid: neither the engine nor `rst` sets it. -/
theorem stateEdge_busy_hRdata (c : Cycle) {s : State} (hb : s.busy = true) (hn : s.hRdata = none) :
    ∃ t, stateEdge c s = .next t ∧ t.hRdata = none := by
  unfold stateEdge
  rw [if_pos hb]
  split
  · exact ⟨_, rfl, rfl⟩
  · exact hn ▸ engineEdge_hRdata c.usTick s

/-! ### Reads with BUSY = 1 (R76) -/

/-- An edge with a read is the edge without it, and then the word of the state before it (R26). -/
theorem clkEdge_read {r u : Bool} {s t : State} (a : Addr) (h : stateEdge ⟨r, u, none⟩ s = .next t) :
    clkEdge ⟨r, u, some (.read a)⟩ s = .next (showRead a s t) :=
  clkEdge_next (c := ⟨r, u, some (.read a)⟩) h

theorem showRead_eq_status {a : Addr} (ha : a.toNat = 0x01) (s t : State) :
    showRead a s t = setRdata s.statusWord t := by
  have e : a = 0x01 := BitVec.eq_of_toNat_eq ha
  rw [e, showRead_status, readReg_status s rfl]

/-- Settles O17: the port shows STATUS or a free word, and only the port is touched. -/
theorem busyReadDefinesStatusOnly : Obligations.BusyReadDefinesStatusOnly := by
  refine ⟨fun s a hb => ⟨fun ha => ?_, fun _ => ?_⟩, fun s a r u rest hb h => ?_⟩
  · obtain ⟨hbusy, -, -, -, hspu, -⟩ := statusAndCauseWordsShowTheirFields s
    exact ⟨congrArg _ (showRead_eq_status ha s s), hbusy.trans hb, hspu⟩
  · obtain ⟨v, n, e⟩ := showRead_cases a s s
    exact ⟨showRead a s s, rfl, ⟨v, by rw [e]⟩, readPort_frame (some (.read a)) s s⟩
  · obtain ⟨t, e, hn⟩ := stateEdge_busy_hRdata (s := takeInput rest s) ⟨r, u, none⟩ hb rfl
    have hread : step s = .next (showRead a (takeInput rest s) t) := by
      rw [step_clk h, clkEdge_read a e]
    refine ⟨t, ?_, hn, fun ha => ?_, fun _ => ?_⟩
    · exact (clkEdge_quiet r u (takeInput rest s)).trans e
    · rw [hread, showRead_eq_status ha]
      rfl
    · obtain ⟨v, n, e'⟩ := showRead_cases a (takeInput rest s) t
      exact ⟨v, n, by rw [hread, e']⟩

end Sys2Proof.Machine
end

section
/-! PROOFS. The statements about the command word (30_encoding.md R100 to R104): the rows of the opcode map, what a
row's format makes of an operand, and decoder and encoder as inverses of each other. -/

namespace Sys2Proof.Machine

/-! ### The fields of a word (R100) -/

/-- The bits from n on are all 0 exactly if the number is below 2 ^ n. -/
theorem extractLsb'_eq_zero_iff_div (n k : Nat) (v : BitVec (n + k)) :
    v.extractLsb' n k = 0#k ↔ v.toNat / 2 ^ n = 0 := by
  have hv : v.toNat / 2 ^ n < 2 ^ k := Nat.div_lt_of_lt_mul (Nat.pow_add 2 n k ▸ v.isLt)
  rw [← BitVec.toNat_inj, BitVec.extractLsb'_toNat, Nat.shiftRight_eq_div_pow, Nat.mod_eq_of_lt hv,
    BitVec.toNat_zero]

/-- A word is its ZERO, OPC and ARG: the difference of two words that agree in all three is the word 0. -/
theorem word_eq_iff_fields (v w : Word) : v = w ↔
    v.extractLsb' 16 16 = w.extractLsb' 16 16 ∧ wordOpc v = wordOpc w ∧ wordArg v = wordArg w := by
  refine ⟨fun h => h ▸ ⟨rfl, rfl, rfl⟩, fun ⟨hz, ho, ha⟩ => ?_⟩
  have hz' : (v ^^^ w).extractLsb' 16 16 = 0 := by simp [BitVec.extractLsb'_xor, hz]
  have ho' : wordOpc (v ^^^ w) = wordOpc v ^^^ wordOpc w := BitVec.extractLsb'_xor
  have ha' : wordArg (v ^^^ w) = wordArg v ^^^ wordArg w := BitVec.extractLsb'_xor
  have hx : v ^^^ w = commandWord 0 0 := by
    rw [← commandWord_fields _ hz', ho', ha', ho, ha, BitVec.xor_self, BitVec.xor_self]
    rfl
  exact BitVec.xor_eq_zero_iff.mp hx

/-! ### The rows of the map (R103) -/

/-- No two rows of the map have one opcode. -/
theorem opcodeMap_eq_of_opc_eq {r q : OpRow} (hr : r ∈ opcodeMap) (hq : q ∈ opcodeMap)
    (h : r.opc = q.opc) : r = q :=
  List.inj_on_of_nodup_map (f := OpRow.opc) (by decide) hr hq h

theorem opRow?_eq_some_iff {c : Byte} {r : OpRow} :
    opRow? c = some r ↔ r ∈ opcodeMap ∧ r.opc = c := by
  constructor
  · intro h
    exact ⟨List.mem_of_find?_eq_some h, by simpa using List.find?_some h⟩
  · rintro ⟨hr, rfl⟩
    cases hq : opRow? r.opc with
    | none => simpa using List.find?_eq_none.mp hq r hr
    | some q =>
      have hc : q.opc = r.opc := by simpa using List.find?_some hq
      rw [opcodeMap_eq_of_opc_eq (List.mem_of_find?_eq_some hq) hr hc]

theorem opRow?_eq_none {c : Byte} (h : c ∉ opcodeMap.map OpRow.opc) : opRow? c = none := by
  refine List.find?_eq_none.mpr fun r hr e => h ?_
  rw [← beq_iff_eq.mp e]
  exact List.mem_map_of_mem hr

/-- R104 from step (3) on. -/
theorem decode_of_row {c : Byte} {r : OpRow} (h : opRow? c = some r) (arg : Byte) :
    decode (commandWord c arg) = r.shape.operand arg := by
  rw [decode_commandWord, h]

/-- The decoder, row by row: ZERO is 0, OPC is the row's, and its format admits ARG (R104 step 6). -/
theorem decode_eq_ok_iff {w : Word} {i : Instr} : decode w = .ok i ↔
    w.extractLsb' 16 16 = 0 ∧
      ∃ r ∈ opcodeMap, r.opc = wordOpc w ∧ r.shape.operand (wordArg w) = .ok i := by
  constructor
  · intro h
    have hz := decode_high h
    rw [decode_eq_fields w hz] at h
    cases hr : opRow? (wordOpc w) with
    | none => simp [decode_commandWord, hr] at h
    | some r =>
      obtain ⟨hmem, hopc⟩ := opRow?_eq_some_iff.mp hr
      exact ⟨hz, r, hmem, hopc, (decode_of_row hr _).symm.trans h⟩
  · rintro ⟨hz, r, hmem, hopc, h⟩
    rw [decode_eq_fields w hz, decode_of_row (opRow?_eq_some_iff.mpr ⟨hmem, hopc⟩), h]

/-! ### The formats (R101) -/

theorem flagArg_high (b : Bool) : (flagArg b).extractLsb' 1 7 = 0 := by cases b <;> rfl

theorem flagArg_flag (b : Bool) : (flagArg b).getLsbD 0 = b := by cases b <;> rfl

/-- An ARG that format F admits is the ARG of its flag. -/
theorem flagArg_of_high {arg : Byte} (h : arg.extractLsb' 1 7 = 0) : flagArg (arg.getLsbD 0) = arg := by
  revert arg; decide

/-- The commands a format makes have opcode `c` and carry the operand as their ARG. -/
def Shape.Carries (c : Byte) : Shape → Prop
  | .N i => i.opc = c ∧ i.arg = 0
  | .F mk => ∀ b, (mk b).opc = c ∧ (mk b).arg = flagArg b
  | .I mk => ∀ v, (mk v).opc = c ∧ (mk v).arg = v
  | .C mk => ∀ v, (mk v).opc = c ∧ (mk v).arg = v
  | .B mk => ∀ v, (mk v).opc = c ∧ (mk v).arg = v

theorem opcodeMap_carries : ∀ r ∈ opcodeMap, Shape.Carries r.opc r.shape := by
  simp only [opcodeMap, opcodeMapTransport, opcodeMapCrcSearchBus, opcodeMapDs18x20, List.forall_mem_append,
    List.forall_mem_cons]
  simp [Shape.Carries, Instr.opc, Instr.arg]

/-- So no bit of an admitted operand is dropped. -/
theorem Shape.Carries.opc_arg {c : Byte} {x : Shape} (hx : Shape.Carries c x) {arg : Byte} {i : Instr}
    (h : x.operand arg = .ok i) : i.opc = c ∧ i.arg = arg := by
  cases x with
  | N j =>
    simp only [Shape.operand] at h
    split at h <;> cases h
    next h0 => exact h0 ▸ hx
  | F mk =>
    simp only [Shape.operand] at h
    split at h <;> cases h
    next h0 =>
      obtain ⟨hopc, harg⟩ := hx (arg.getLsbD 0)
      exact ⟨hopc, harg.trans (flagArg_of_high h0)⟩
  | I mk => cases h; exact hx _
  | C mk => simp only [Shape.operand] at h; split at h <;> cases h; exact hx _
  | B mk => simp only [Shape.operand] at h; split at h <;> cases h; exact hx _

/-! ### What each word of an opcode decodes to, by the format of its row (R101, R104 steps 3 to 6) -/

theorem formatN_of_row {c : Byte} {m : String} {i : Instr} (h : opRow? c = some ⟨c, m, .N i⟩) :
    FormatN c i := decode_of_row h

theorem formatF_of_row {c : Byte} {m : String} {mk : Bool → Instr} (h : opRow? c = some ⟨c, m, .F mk⟩) :
    FormatF c mk := by
  intro arg
  have hz : arg.extractLsb' 1 7 = 0 ↔ arg.toNat / 2 = 0 := extractLsb'_eq_zero_iff_div 1 7 arg
  have hb : arg.getLsbD 0 = decide (arg.toNat % 2 = 1) := by simp [BitVec.getLsbD]
  rw [decode_of_row h, ← hb]
  simp only [Shape.operand, hz]

theorem formatI_of_row {c : Byte} {m : String} {mk : Byte → Instr} (h : opRow? c = some ⟨c, m, .I mk⟩) :
    FormatI c mk := decode_of_row h

theorem formatC_of_row {c : Byte} {m : String} {mk : Byte → Instr} (h : opRow? c = some ⟨c, m, .C mk⟩) :
    FormatC c mk := by
  intro arg
  rw [decode_of_row h]
  simp [Shape.operand, countOk]

theorem formatB_of_row {c : Byte} {m : String} {mk : Byte → Instr} (h : opRow? c = some ⟨c, m, .B mk⟩) :
    FormatB c mk := by
  intro arg
  rw [decode_of_row h]
  simp [Shape.operand, resolutionOk]

/-! ### Decoder and encoder are inverses -/

theorem operand_N (i : Instr) : (Shape.N i).operand 0 = .ok i := rfl

theorem operand_F (mk : Bool → Instr) (b : Bool) : (Shape.F mk).operand (flagArg b) = .ok (mk b) := by
  rw [Shape.operand, if_pos (flagArg_high b), flagArg_flag]

theorem operand_C (mk : Byte → Instr) {n : Byte} (h : countOk n = true) : (Shape.C mk).operand n = .ok (mk n) :=
  if_pos h

theorem operand_B (mk : Byte → Instr) {n : Byte} (h : resolutionOk n = true) :
    (Shape.B mk).operand n = .ok (mk n) := if_pos h

/-- The row of a command's opcode makes the command again of its ARG. -/
theorem exists_row_of_wf (i : Instr) (hi : i.wf = true) :
    ∃ r, opRow? i.opc = some r ∧ r.shape.operand i.arg = .ok i := by
  cases i with
  | writeBit b | crcRom b | convert b | powerMode b => exact ⟨_, rfl, operand_F _ b⟩
  | writeByte v | crcUpd v => exact ⟨_, rfl, rfl⟩
  | readBytes n | writeBytes n | crcBuf n => exact ⟨_, rfl, operand_C _ hi⟩
  | setRes n => exact ⟨_, rfl, operand_B _ hi⟩
  | _ => exact ⟨_, rfl, operand_N _⟩

/-- Settles O2: the row of the command's opcode makes the command again of its ARG. -/
theorem decodeAfterEncodeIsIdentity : Obligations.DecodeAfterEncodeIsIdentity := by
  intro i hi
  obtain ⟨r, hrow, hop⟩ := exists_row_of_wf i hi
  exact (decode_of_row hrow _).trans hop

/-- Settles O3: a row's command carries the row's opcode and the operand, and these are all of the word. -/
theorem decodedWordIsTheCommandsEncoding : Obligations.DecodedWordIsTheCommandsEncoding := by
  intro w i h
  obtain ⟨hz, r, hmem, hopc, hop⟩ := decode_eq_ok_iff.mp h
  obtain ⟨ho, ha⟩ := (opcodeMap_carries r hmem).opc_arg hop
  exact ⟨decode_wf h, by rw [encode, ho, ha, hopc, commandWord_fields w hz]⟩

/-- Settles O1: the decoder evaluated at each word. -/
theorem specWordsDecodeAsListed : Obligations.SpecWordsDecodeAsListed := by
  unfold Obligations.SpecWordsDecodeAsListed
  and_intros <;> rfl

/-! ### Match and mask (R103) -/

/-- The bits of ARG that a format's mask covers. -/
def Shape.argMask : Shape → Byte
  | .N _ => 0xFF
  | .F _ => 0xFE
  | .I _ => 0
  | .C _ => 0
  | .B _ => 0

theorem mask_fields (x : Shape) : x.mask.extractLsb' 16 16 = BitVec.allOnes 16 ∧
    wordOpc x.mask = BitVec.allOnes 8 ∧ wordArg x.mask = Shape.argMask x := by
  cases x <;> simp only [Shape.mask, Shape.argMask] <;> decide

theorem matchWord_eq_commandWord (r : OpRow) : r.matchWord = commandWord r.opc 0 := by
  simp [OpRow.matchWord, commandWord]

/-- The mask selects by ZERO, OPC and the bits of ARG that the format holds at 0. -/
theorem and_mask_eq_matchWord_iff (r : OpRow) (w : Word) : w &&& r.shape.mask = r.matchWord ↔
    w.extractLsb' 16 16 = 0 ∧ wordOpc w = r.opc ∧ wordArg w &&& Shape.argMask r.shape = 0 := by
  obtain ⟨hz, ho, ha⟩ := mask_fields r.shape
  have ho' : wordOpc (w &&& r.shape.mask) = wordOpc w &&& wordOpc r.shape.mask := BitVec.extractLsb'_and
  have ha' : wordArg (w &&& r.shape.mask) = wordArg w &&& wordArg r.shape.mask := BitVec.extractLsb'_and
  rw [word_eq_iff_fields, matchWord_eq_commandWord, commandWord_high, wordOpc_commandWord, wordArg_commandWord,
    BitVec.extractLsb'_and, ho', ha', hz, ho, ha, BitVec.and_allOnes, BitVec.and_allOnes]

theorem flagArg_and_argMask (b : Bool) : flagArg b &&& 0xFE = 0 := by revert b; decide

/-- A format admits no ARG with a 1 in the bits its mask covers. -/
theorem and_argMask_eq_zero {x : Shape} {arg : Byte} {i : Instr} (h : x.operand arg = .ok i) :
    arg &&& Shape.argMask x = 0 := by
  cases x with
  | N j =>
    simp only [Shape.operand] at h
    split at h <;> cases h
    next h0 =>
      rw [h0]
      exact BitVec.zero_and
  | F mk =>
    simp only [Shape.operand] at h
    split at h <;> cases h
    next h0 => exact flagArg_of_high h0 ▸ flagArg_and_argMask _
  | I mk => exact BitVec.and_zero
  | C mk => exact BitVec.and_zero
  | B mk => exact BitVec.and_zero

/-- R103: "the command is selected iff `w & mask == match`". -/
theorem decode_eq_ok_iff_mask (w : Word) (i : Instr) : decode w = .ok i ↔
    ∃ r ∈ opcodeMap, w &&& r.shape.mask = r.matchWord ∧ r.shape.operand (wordArg w) = .ok i := by
  rw [decode_eq_ok_iff]
  constructor
  · rintro ⟨hz, r, hmem, hopc, hop⟩
    exact ⟨r, hmem, (and_mask_eq_matchWord_iff r w).mpr ⟨hz, hopc.symm, and_argMask_eq_zero hop⟩, hop⟩
  · rintro ⟨r, hmem, hsel, hop⟩
    obtain ⟨hz, hopc, -⟩ := (and_mask_eq_matchWord_iff r w).mp hsel
    exact ⟨hz, r, hmem, hopc.symm, hop⟩

/-- Settles O4: the mask compares ZERO, OPC and the reserved bits of ARG, which is what the decoder checks. -/
theorem matchAndMaskSelectTheCommand : Obligations.MatchAndMaskSelectTheCommand := by
  refine ⟨rfl, decode_eq_ok_iff_mask, fun w r q _ _ hr hq => ?_, fun i => ?_⟩
  · obtain ⟨-, hopr, -⟩ := (and_mask_eq_matchWord_iff r w).mp hr
    obtain ⟨-, hopq, -⟩ := (and_mask_eq_matchWord_iff q w).mp hq
    exact hopr.symm.trans hopq
  · cases i <;> simp [busActive, prims, addressPrims, Instr.opc]

/-! ### The rejections (R104) -/

theorem decode_highBits {w : Word} (h : w.extractLsb' 16 16 ≠ 0) : decode w = .error .highBits := if_pos h

theorem decode_undefinedOpcode {w : Word} (hz : w.extractLsb' 16 16 = 0)
    (h : wordOpc w ∉ opcodeMap.map OpRow.opc) : decode w = .error .undefinedOpcode := by
  rw [decode_eq_fields w hz, decode_commandWord, opRow?_eq_none h]

theorem exists_decode_encode {w : Word} {i : Instr} (hz : w.extractLsb' 16 16 = 0)
    (hd : decode (commandWord (wordOpc w) (wordArg w)) = .ok i) : ∃ i, decode w = .ok i ∧ encode i = w := by
  rw [commandWord_fields w hz] at hd
  exact ⟨i, hd, (decodedWordIsTheCommandsEncoding w i hd).2⟩

/-- An operand check that rejects exactly on `q` decodes every other word to the command it encodes. -/
theorem rejects_else_decodes {w : Word} {i : Instr} {e : DecodeError} {p q : Prop} [Decidable p] [Decidable q]
    (hz : w.extractLsb' 16 16 = 0) (hq : ¬ p ↔ q)
    (hd : decode (commandWord (wordOpc w) (wordArg w)) = if p then .ok i else .error e) :
    if q then decode w = .error e else ∃ i, decode w = .ok i ∧ encode i = w := by
  split
  · next h => rwa [if_neg (hq.mpr h), commandWord_fields w hz] at hd
  · next h => exact exists_decode_encode hz (hd.trans (if_pos (not_not.mp (mt hq.mp h))))

theorem raise_ended (c : Cause) (n : Pos) (s : State) : Ended c n (raise c n s) :=
  ⟨rfl, rfl, rfl, rfl, rfl, rfl, rfl, rfl, rfl, rfl, rfl⟩

theorem command_error {w : Word} {e : DecodeError} (h : decode w = .error e) (s : State) :
    command w s = .next (raise .invalidArgument e.info (accept w s)) := by
  rw [command, h]

/-! ### The opcodes by format (R103) -/

theorem exists_row_N : ∀ c ∈ ([0x00, 0x01, 0x02, 0x04, 0x10, 0x20, 0x21, 0x22, 0x30, 0x31, 0x41, 0x42, 0x43,
    0x44] : List Byte), ∃ m i, opRow? c = some ⟨c, m, .N i⟩ := by
  intro c hc
  fin_cases hc <;> exact ⟨_, _, rfl⟩

theorem exists_row_F : ∀ c ∈ ([0x03, 0x13, 0x40, 0x46] : List Byte), ∃ m mk, opRow? c = some ⟨c, m, .F mk⟩ := by
  intro c hc
  fin_cases hc <;> exact ⟨_, _, rfl⟩

theorem exists_row_I : ∀ c ∈ ([0x05, 0x11] : List Byte), ∃ m mk, opRow? c = some ⟨c, m, .I mk⟩ := by
  intro c hc
  fin_cases hc <;> exact ⟨_, _, rfl⟩

theorem exists_row_C : ∀ c ∈ ([0x06, 0x07, 0x12] : List Byte), ∃ m mk, opRow? c = some ⟨c, m, .C mk⟩ := by
  intro c hc
  fin_cases hc <;> exact ⟨_, _, rfl⟩

theorem exists_row_B : ∀ c ∈ ([0x45] : List Byte), ∃ m mk, opRow? c = some ⟨c, m, .B mk⟩ := by
  intro c hc
  obtain rfl := List.mem_singleton.mp hc
  exact ⟨_, _, rfl⟩

/-- Settles O5: the row of OPC gives the format, and the format's equation says which ARG it rejects and how. -/
theorem decoderRejectsInSpecOrder : Obligations.DecoderRejectsInSpecOrder := by
  refine ⟨fun w => ⟨fun h => decode_highBits (mt (extractLsb'_eq_zero_iff_div 16 16 w).mp h), fun h => ?_⟩,
    rfl, rfl, rfl, rfl, rfl, fun w e s h => ⟨_, command_error h s, raise_ended _ _ _⟩⟩
  have hz := (extractLsb'_eq_zero_iff_div 16 16 w).mpr h
  refine ⟨fun hc => decode_undefinedOpcode hz fun hm => hc ?_, fun hc => ?_, fun hc => ?_, fun hc => ?_,
    fun hc => ?_, fun hc => ?_⟩
  · exact (by decide : opcodeMap.map OpRow.opc ⊆ _) hm
  · obtain ⟨m, i, hrow⟩ := exists_row_N _ hc
    exact rejects_else_decodes hz BitVec.toNat_inj.not.symm (formatN_of_row hrow _)
  · obtain ⟨m, mk, hrow⟩ := exists_row_F _ hc
    exact rejects_else_decodes hz (by rw [wordArg]; omega) (formatF_of_row hrow _)
  · obtain ⟨m, mk, hrow⟩ := exists_row_I _ hc
    exact exists_decode_encode hz (formatI_of_row hrow _)
  · obtain ⟨m, mk, hrow⟩ := exists_row_C _ hc
    exact rejects_else_decodes hz (by rw [wordArg]; omega) (formatC_of_row hrow _)
  · obtain ⟨m, mk, hrow⟩ := exists_row_B _ hc
    exact rejects_else_decodes hz (by rw [wordArg]; omega) (formatB_of_row hrow _)

end Sys2Proof.Machine
end

section
/-! PROOFS. The statements about the bit transport (40_bit_transport.md R141 to R160): each command as its prologue,
one run of slots and its end, and the boundaries of a slot against the table of R160. -/

namespace Sys2Proof.Machine

/-! ### A command as one run of slots -/

/-- A prologue and a run of slots after it (R140, R154). -/
theorem ran_issued_prologue (s : State) (xs : List Slot) (n len : Nat) :
    Ran s (issued xs n len (prologue s)) xs n len :=
  ⟨rfl, Nat.add_assoc _ _ _, rfl, rfl, rfl, rfl⟩

section
variable {s t : State} {xs : List Slot} {n len : Nat}

@[simp] theorem ran_setData (v : Byte) : Ran s (setData v t) xs n len ↔ Ran s t xs n len := Iff.rfl
@[simp] theorem ran_setPresence (b : Bool) : Ran s (setPresence b t) xs n len ↔ Ran s t xs n len := Iff.rfl
@[simp] theorem ran_withBuf (b : Buf) : Ran s (withBuf b t) xs n len ↔ Ran s t xs n len := Iff.rfl
@[simp] theorem ran_endCommand (c : Cause) (k : Pos) :
    Ran s (endCommand c k t) xs n len ↔ Ran s t xs n len := Iff.rfl
@[simp] theorem ran_finish : Ran s (finish t) xs n len ↔ Ran s t xs n len := Iff.rfl

end

@[simp] theorem sampleAt_prologue (s : State) (k : Nat) : (prologue s).sampleAt k = s.sampleAt k := rfl

@[simp] theorem rxSlots_prologue (s : State) (k n : Nat) : rxSlots (prologue s) k n = rxSlots s k n := rfl

@[simp] theorem assembledFrom_prologue (s : State) (k : Nat) (v : Byte) :
    AssembledFrom (prologue s) k v ↔ AssembledFrom s k v := Iff.rfl

theorem finish_ended (s : State) : Ended .ok 0 (finish s) := raise_ended .ok 0 s

/-- The frame of O8 for the state that a command answers. -/
theorem exec_frame {i : Instr} {s t : State} (h : exec i s = .next t) : sameExcept (mayWrite i) s t := by
  obtain ⟨u, hu, hf⟩ := commandWritesOnlyItsColumns i s
  rw [h] at hu
  cases hu
  exact hf

/-! ### The commands (R147 to R153) -/

theorem exec_reset (s : State) : exec .reset s = .next (endCommand (if s.sampleAt 0 then .busAbsent else .ok) 0
    (setPresence (!s.sampleAt 0) (issued [.reset (!s.sampleAt 0)] 1 960 (prologue s)))) := by
  simp only [exec, execReset, resetSlot_eq, sampleAt_prologue]
  cases s.sampleAt 0 <;> rfl

theorem exec_readBit (s : State) : exec .readBit s = .next (finish (setData (bitByte (s.sampleAt 0))
    (issued [.read (s.sampleAt 0)] 1 48 (prologue s)))) := by
  simp only [exec, execReadBit, readSlot_eq, sampleAt_prologue, readLength_eq]

theorem exec_writeBit (b : Bool) (s : State) :
    exec (.writeBit b) s = .next (finish (issued [.write b] 0 64 (prologue s))) := by
  simp only [exec, execWriteBit, writeSlot_eq, writeLength_eq]

theorem exec_readByte (s : State) : ∃ v, AssembledFrom s 0 v ∧
    exec .readByte s = .next (finish (setData v (issued (rxSlots s 0 8) 8 384 (prologue s)))) := by
  obtain ⟨hs, hv⟩ := readByteSeq_eq (prologue s)
  refine ⟨(readByteSeq (prologue s)).1, hv, ?_⟩
  simp only [exec, execReadByte, hs, rxSlots_prologue]

theorem exec_writeByte (v : Byte) (s : State) :
    exec (.writeByte v) s = .next (finish (issued (txSlots [v]) 0 512 (prologue s))) := by
  simp only [exec, execWriteByte, writeByteSeq_eq]

/-- The legal counts of READ_BYTES and WRITE_BYTES (R101). -/
theorem not_badCount {n : Byte} (h1 : 1 ≤ n.toNat) (h9 : n.toNat ≤ 9) : ¬ (n.toNat = 0 ∨ 9 < n.toNat) := by
  omega

theorem exec_readBytes {n : Byte} (h1 : 1 ≤ n.toNat) (h9 : n.toNat ≤ 9) (s : State) : ∃ b : Buf,
    (∀ k, k < n.toNat → AssembledFrom s (8 * k) (byteAt b k)) ∧
    (∀ k, n.toNat ≤ k → byteAt b k = byteAt s.buf k) ∧
    exec (.readBytes n) s = .next (finish (withBuf b
      (issued (rxSlots s 0 (8 * n.toNat)) (8 * n.toNat) (384 * n.toNat) (prologue s)))) := by
  have hx : exec (.readBytes n) s = .next (finish (readBufFrom 0 n.toNat (prologue s))) :=
    congrArg _ (if_neg (not_badCount h1 h9))
  obtain ⟨m, hm⟩ := Nat.exists_eq_add_of_le' h1
  rw [hm] at h9 hx ⊢
  obtain ⟨b, hb, hread, hkept⟩ := readBufFrom_eq 0 m (prologue s) ((Nat.zero_add _).trans_le h9)
  refine ⟨b, fun k hk => ?_, fun k hk => hkept k (.inr (by omega)), by rw [hx, hb, rxSlots_prologue]⟩
  simpa using hread k hk

theorem exec_readBytes_badCount {n : Byte} (h : n.toNat = 0 ∨ 9 < n.toNat) (s : State) :
    exec (.readBytes n) s = .next (raise .invalidArgument 3 s) := congrArg _ (if_pos h)

theorem exec_writeBytes {n : Byte} (h1 : 1 ≤ n.toNat) (h9 : n.toNat ≤ 9) (s : State) :
    exec (.writeBytes n) s = .next (finish
      (issued (txSlots (bufBytes s.buf 0 n.toNat)) 0 (512 * n.toNat) (prologue s))) := by
  have hne : bufBytes s.buf 0 n.toNat ≠ [] := List.ne_nil_of_length_pos (by rwa [bufBytes_length])
  have hw := writeByteList_eq _ (prologue s) hne
  rw [bufBytes_length] at hw
  rw [← hw]
  exact congrArg _ (if_neg (not_badCount h1 h9))

theorem exec_writeBytes_badCount {n : Byte} (h : n.toNat = 0 ∨ 9 < n.toNat) (s : State) :
    exec (.writeBytes n) s = .next (raise .invalidArgument 3 s) := congrArg _ (if_pos h)

/-- `zext_8` of a bit as a number (R11). -/
theorem toNat_bitByte (b : Bool) : (bitByte b).toNat = b.toNat := by cases b <;> rfl

/-- Settles O24: one reset slot after the prologue, and the end its sample gives. -/
theorem resetReportsPresence : Obligations.ResetReportsPresence :=
  ⟨formatN_of_row rfl, fun s => ⟨_, exec_reset s, raise_ended _ _ _,
    by simpa using ran_issued_prologue s _ _ _, rfl, rfl, exec_frame (exec_reset s)⟩⟩

/-- Settles O25: one read slot after the prologue, its sample in DATA. -/
theorem readBitStoresTheSample : Obligations.ReadBitStoresTheSample :=
  ⟨formatN_of_row rfl, fun s => ⟨_, exec_readBit s, finish_ended _,
    by simpa using ran_issued_prologue s _ _ _, toNat_bitByte _, rfl, exec_frame (exec_readBit s)⟩⟩

/-- Settles O26: one write slot after the prologue. -/
theorem writeBitSendsTheBit : Obligations.WriteBitSendsTheBit :=
  ⟨formatF_of_row rfl, fun b s => ⟨_, exec_writeBit b s, finish_ended _,
    by simpa using ran_issued_prologue s _ _ _, rfl, exec_frame (exec_writeBit b s)⟩⟩

/-- Settles O27: eight read slots after the prologue, the byte they assemble in DATA. -/
theorem readByteAssemblesEightSamples : Obligations.ReadByteAssemblesEightSamples := by
  refine ⟨formatN_of_row rfl, fun s => ?_⟩
  obtain ⟨v, hv, hx⟩ := exec_readByte s
  exact ⟨_, hx, finish_ended _, by simpa using ran_issued_prologue s _ _ _, hv, rfl, exec_frame hx⟩

/-- Settles O28: the eight write slots of the byte after the prologue. -/
theorem writeByteSendsEightBits : Obligations.WriteByteSendsEightBits := by
  refine ⟨formatI_of_row rfl, fun v s => ⟨_, exec_writeByte v s, finish_ended _, ?_, rfl,
    exec_frame (exec_writeByte v s)⟩⟩
  have hslots : txSlots [v] = (List.range 8).map fun j => .write (v.getLsbD j) := by
    simp [txSlots, wireBits, Function.comp_def]
  simpa [hslots] using ran_issued_prologue s (txSlots [v]) 0 512

/-- Settles O29: n bytes read into BUF after the prologue, or the refusal of the count. -/
theorem readBytesFillsTheBuffer : Obligations.ReadBytesFillsTheBuffer := by
  refine ⟨formatC_of_row rfl, fun n s h1 h9 => ?_, fun n s h => ?_⟩
  · obtain ⟨b, hread, hkept, hx⟩ := exec_readBytes h1 h9 s
    exact ⟨_, hx, finish_ended _, by simpa using ran_issued_prologue s _ _ _, hread, hkept, rfl,
      exec_frame hx⟩
  · exact ⟨_, exec_readBytes_badCount h s, raise_ended _ _ _, endCommand_frame _ _ s⟩

/-- Settles O30: the first n bytes of BUF sent after the prologue, or the refusal of the count. -/
theorem writeBytesSendsTheBuffer : Obligations.WriteBytesSendsTheBuffer := by
  refine ⟨formatC_of_row rfl, fun n s h1 h9 => ?_, fun n s h => ?_⟩
  · have hx := exec_writeBytes h1 h9 s
    have hb : bufBytes s.buf 0 n.toNat = (List.range n.toNat).map fun k => byteAt s.buf k := by
      simp [bufBytes]
    rw [hb] at hx
    exact ⟨_, hx, finish_ended _, by simpa using ran_issued_prologue s _ _ _, rfl, exec_frame hx⟩
  · exact ⟨_, exec_writeBytes_badCount h s, raise_ended _ _ _, endCommand_frame _ _ s⟩

/-! ### The strong pull-up and the line (R141, R263) -/

/-- While a command runs at tick level, the line is released or SPUL is 0: SPUL is 1 in the prologue only. -/
theorem Due.released_or_spul {i : Instr} {p : Prim} {s : State} (h : Due i p s) :
    s.owOut = true ∨ s.spul = false := by
  rcases h.spul with hs | ⟨rfl, -⟩
  · exact .inr hs
  · exact .inl (levels_iff.mp (h.levels.trans (levelsBefore_gap _))).1

/-- In a state that meets the invariant the line is released or SPUL is 0. -/
theorem released_or_spul {s : State} (h : s.ok = true) : s.owOut = true ∨ s.spul = false := by
  cases hb : s.busy with
  | false =>
    obtain ⟨⟨-, ho, -⟩, -⟩ := rests_of_idle h hb
    exact .inl ho
  | true =>
    simp only [State.ok, hb, if_true, Bool.and_eq_true] at h
    obtain ⟨hr, h⟩ := h
    cases hh : s.hold with
    | some w =>
      simp only [hh, Bool.and_eq_true] at h
      obtain ⟨⟨-, ho⟩, -⟩ := h
      exact .inl ho
    | none =>
      simp only [hh] at h
      obtain ⟨i, p, hdue⟩ := Due.of_sequencerOk hb hh hr h
      exact hdue.released_or_spul

/-- Settles O23: with the line low SPUL is 0, and so is `spu_out`. -/
theorem pullUpNeverMeetsLowDrive : Obligations.PullUpNeverMeetsLowDrive := by
  rintro s h ⟨hlow, hspu⟩
  rcases released_or_spul h with ho | hs
  · simp [ho] at hlow
  · simp [State.spuOut, hs] at hspu

/-! ### The boundaries of a slot (R155, R157, R160) -/

/-- A primitive is in one slot from its first boundary on. -/
theorem afterBoundary_slotKind (p : Prim) (n : Nat) (s : State) :
    p.slotKind (afterBoundary p n s) = p.slotKind s := by
  induction n with
  | zero => exact boundaryAction_slotKind p 0 s
  | succ n ih => exact (boundaryAction_slotKind p (n + 1) _).trans ih

theorem afterBoundary_levels {p : Prim} {s : State} (h : s.levels = (true, false)) (n : Nat) :
    (afterBoundary p n s).levels = (p.slotKind s).levelsAt n := by
  induction n with
  | zero => exact boundaryAction_levels h
  | succ n ih =>
    rw [← afterBoundary_slotKind p n s] at ih ⊢
    exact boundaryAction_levels ih

theorem afterBoundary_prologue_spul (n : Nat) (s : State) : (afterBoundary .prologue n s).spul = false := by
  induction n with
  | zero => exact boundaryAction_spul (.inr ⟨rfl, rfl⟩)
  | succ n ih => exact boundaryAction_spul (.inl ih)

/-- How many samples boundary t of a slot takes (R157). -/
def SlotKind.samplesAt (k : SlotKind) (t : Nat) : Nat := if k.sampleBoundary = some t then 1 else 0

theorem samplesBy_zero (k : SlotKind) : k.samplesBy 0 = k.samplesAt 0 := by
  cases k <;> rfl

theorem samplesBy_succ (k : SlotKind) (t : Nat) : k.samplesBy (t + 1) = k.samplesBy t + k.samplesAt (t + 1) := by
  cases h : k.sampleBoundary with
  | none => simp [SlotKind.samplesBy, SlotKind.samplesAt, h]
  | some n =>
    simp only [SlotKind.samplesBy, SlotKind.samplesAt, h, Option.some.injEq]
    split_ifs <;> omega

theorem takePresence_line (s : State) : (takePresence s).line = s.line.drop 1 := by
  rw [takePresence_eq]
  rfl

theorem takeBit_line (p : Prim) (s : State) : (p.takeBit s).line = s.line.drop 1 := by
  rw [takeBit_eq]
  cases p <;> rfl

/-- Of a slot's three actions only the last one, at boundary b, takes a sample. -/
theorem stagedActions_line {a b t : Nat} {f0 f1 f2 : State → State} {s : State}
    (h0 : ∀ u, (f0 u).line = u.line) (h1 : ∀ u, (f1 u).line = u.line) (h2 : ∀ u, (f2 u).line = u.line.drop 1) :
    (atBoundary b t f2 (atBoundary a t f1 (atBoundary 0 t f0 s))).line =
      s.line.drop (if some b = some t then 1 else 0) := by
  have h01 : (atBoundary a t f1 (atBoundary 0 t f0 s)).line = s.line :=
    (atBoundary_keeps State.line a t h1 _).trans (atBoundary_keeps State.line 0 t h0 s)
  by_cases ht : t = b
  · rw [ht, atBoundary_eq, if_pos rfl, h2, ← ht, h01]
  · rw [atBoundary_ne f2 _ ht, if_neg fun e => ht (Option.some.inj e).symm, h01, List.drop_zero]

/-- `ow_in` is looked at at the sample boundary of a slot and at no other (R155, R157). -/
theorem boundaryAction_line (p : Prim) (t : Nat) (s : State) :
    (boundaryAction p t s).line = s.line.drop ((p.slotKind s).samplesAt t) := by
  cases hk : p.slotKind s with
  | gap =>
    rw [boundaryAction, hk]
    exact atBoundary_keeps State.line 0 t (f := setSpul false) (fun _ => rfl) s
  | reset =>
    rw [boundaryAction, hk]
    exact stagedActions_line (fun _ => rfl) (fun _ => rfl) takePresence_line
  | read =>
    rw [boundaryAction, hk]
    exact stagedActions_line (fun _ => rfl) (fun _ => rfl) (takeBit_line p)
  | write b =>
    rw [boundaryAction, hk]
    refine (atBoundary_keeps State.line _ t ?_ _).trans
      ((atBoundary_keeps State.line _ t ?_ _).trans (atBoundary_keeps State.line 0 t ?_ s))
    all_goals exact fun _ => rfl

theorem afterBoundary_line (p : Prim) (n : Nat) (s : State) :
    (afterBoundary p n s).line = s.line.drop ((p.slotKind s).samplesBy n) := by
  induction n with
  | zero => rw [samplesBy_zero, afterBoundary, boundaryAction_line]
  | succ n ih => rw [samplesBy_succ, afterBoundary, boundaryAction_line, afterBoundary_slotKind, ih, List.drop_drop]

/-- Settles O31: the table evaluated, and each boundary brings its levels and takes its sample. -/
theorem slotWaveformsFollowTheTable : Obligations.SlotWaveformsFollowTheTable := by
  refine ⟨rfl, rfl, rfl, rfl, rfl, rfl, rfl, fun p s n ho hc _ =>
    ⟨afterBoundary_levels (levels_iff.mpr ⟨ho, hc⟩) n, afterBoundary_line p n s, ?_⟩⟩
  rintro rfl
  simp [State.spuOut, afterBoundary_prologue_spul]

end Sys2Proof.Machine
end

section
/-! PROOFS. The statements about the CRC8 checker (41_crc8.md R180 to R189): the shift register is linear over
exclusive-or, which gives the table form and the self-check, and what the four commands write. -/

namespace Sys2Proof.Machine

/-! ### The shift register is linear (R180, R189) -/

/-- What a shift folds in when the bit b falls out (R180). -/
def crcFeedback (b : Bool) : Byte := if b then config.crcPoly else 0

theorem crcFeedback_xor (b c : Bool) : crcFeedback (b ^^ c) = crcFeedback b ^^^ crcFeedback c := by
  cases b <;> cases c <;> decide

theorem crcShift_eq (a : Byte) : crcShift a = a >>> 1 ^^^ crcFeedback (a.getLsbD 0) := by
  unfold crcShift
  cases a.getLsbD 0
  case false => exact (BitVec.xor_zero ..).symm
  case true => rfl

theorem crcShift_xor (a b : Byte) : crcShift (a ^^^ b) = crcShift a ^^^ crcShift b := by
  simp only [crcShift_eq, BitVec.getLsbD_xor, BitVec.ushiftRight_xor_distrib, crcFeedback_xor]
  ac_rfl

theorem crcShifts_xor (n : Nat) (a b : Byte) : crcShifts n (a ^^^ b) = crcShifts n a ^^^ crcShifts n b := by
  induction n generalizing a b with
  | zero => rfl
  | succ n ih => rw [crcShifts, crcShift_xor, ih, crcShifts, crcShifts]

@[simp] theorem crcShifts_zero (n : Nat) : crcShifts n 0#8 = 0#8 := by
  have h := crcShifts_xor n 0 0
  rwa [BitVec.xor_self, BitVec.xor_self] at h

/-! ### The update and the CRC of a sequence (R180, R183) -/

theorem crcUpdate_eq_update_xor (a v : Byte) : crcUpdate a v = crcUpdate (a ^^^ v) 0 := by
  simp [crcUpdate]

theorem crcUpdate_zero_left (v : Byte) : crcUpdate 0 v = crcShifts 8 v := by simp [crcUpdate]

theorem crcUpdate_zero_right (a : Byte) : crcUpdate a 0 = crcShifts 8 a := by simp [crcUpdate]

@[simp] theorem crcUpdate_self (a : Byte) : crcUpdate a a = 0 := by simp [crcUpdate]

theorem crc8_append_singleton (d : List Byte) (v : Byte) : crc8 (d ++ [v]) = crcUpdate (crc8 d) v := by
  simp [crc8]

theorem crc8_replicate_zero (n : Nat) : crc8 (List.replicate n 0) = 0 := by
  induction n with
  | zero => rfl
  | succ n ih => rw [List.replicate_succ', crc8_append_singleton, ih, crcUpdate_self]

/-! ### The tables (R181, R182) -/

theorem crcTables_eq_crcUpdate : ∀ n, n < 16 → crcTable1.getD n 0 = crcUpdate 0 (BitVec.ofNat 8 n) ∧
    crcTable2.getD n 0 = crcUpdate 0 (BitVec.ofNat 8 n <<< 4) := by decide

/-- A byte is its low nibble and its high nibble, each in its place. -/
theorem xor_nibbles (a : Byte) : BitVec.ofNat 8 (a.extractLsb' 0 4).toNat ^^^
    (BitVec.ofNat 8 (a.extractLsb' 4 4).toNat <<< 4) = a := by
  rw [BitVec.ofNat_toNat, BitVec.ofNat_toNat]
  apply BitVec.eq_of_getLsbD_eq
  intro i hi
  by_cases h : i < 4
  · simp [h, hi]
  · have hlt : i - 4 < 4 := by omega
    have hadd : 4 + (i - 4) = i := by omega
    simp [h, hi, hlt, hadd]

/-- The table form splits the byte into nibbles, which linearity lets it update one by one. -/
theorem crcUpdateTable_eq (acc v : Byte) : crcUpdateTable acc v = crcUpdate acc v := by
  have hlow := (crcTables_eq_crcUpdate _ ((acc ^^^ v).extractLsb' 0 4).isLt).1
  have hhigh := (crcTables_eq_crcUpdate _ ((acc ^^^ v).extractLsb' 4 4).isLt).2
  rw [crcUpdate_zero_left] at hlow hhigh
  rw [crcUpdateTable, hlow, hhigh, ← crcShifts_xor, xor_nibbles, crcUpdate]

/-- Settles O34: the sixteen entries evaluated, and the byte updated nibble by nibble. -/
theorem crcTableStepEqualsShiftRegister : Obligations.CrcTableStepEqualsShiftRegister :=
  ⟨crcTables_eq_crcUpdate, crcUpdateTable_eq⟩

/-- Settles O35: the last byte meets itself in the accumulator. -/
theorem crcOfDataWithItsCrcIsZero : Obligations.CrcOfDataWithItsCrcIsZero := fun d => by
  rw [crc8_append_singleton, crcUpdate_self]

/-- Settles O36: the shifts are linear, zeros keep the accumulator 0, and the two runs of 0xFF evaluated. -/
theorem crcUpdateIsLinear : Obligations.CrcUpdateIsLinear := by
  refine ⟨fun a b => ?_, crcUpdate_eq_update_xor, crc8_replicate_zero, by decide +kernel, by decide +kernel⟩
  simp only [crcUpdate_zero_right, crcShifts_xor]

/-! ### The commands (R185 to R188) -/

theorem crcz_iff (s : State) : s.crcz = true ↔ s.crc = 0 := by simp [State.crcz]

/-- The frame of every CRC command that ends OK (R53). -/
theorem finish_setCrc_frame (v : Byte) (s : State) :
    sameExcept (.crc :: endFields) s (finish (setCrc v s)) :=
  ((setCrc_frame v s).mono (by simp)).trans ((endCommand_frame .ok 0 _).mono (List.subset_cons_self _ _))

theorem exec_crcClr (s : State) : exec .crcClr s = .next (finish (setCrc 0 s)) := rfl

theorem exec_crcUpd (v : Byte) (s : State) :
    exec (.crcUpd v) s = .next (finish (setCrc (crcUpdate s.crc v) s)) := rfl

theorem exec_crcBuf {n : Byte} (h1 : 1 ≤ n.toNat) (h9 : n.toNat ≤ 9) (s : State) :
    exec (.crcBuf n) s = .next (finish (setCrc (crc8 (bufBytes s.buf 0 n.toNat)) s)) :=
  congrArg _ (if_neg (not_badCount h1 h9))

theorem exec_crcBuf_badCount {n : Byte} (h : n.toNat = 0 ∨ 9 < n.toNat) (s : State) :
    exec (.crcBuf n) s = .next (raise .invalidArgument 3 s) := congrArg _ (if_pos h)

theorem exec_crcRom (b : Bool) (s : State) :
    exec (.crcRom b) s = .next (finish (setCrc (crc8 (romBytes (if b then s.srom else s.rom))) s)) := rfl

theorem bufBytes_from_zero (b : Buf) (n : Nat) : bufBytes b 0 n = (List.range n).map fun k => byteAt b k := by
  simp [bufBytes]

theorem romBytes_eq_replicate_zero {r : Rom} (h : ∀ k, k < 8 → byteAt r k = 0) :
    romBytes r = List.replicate 8 0 :=
  List.eq_replicate_iff.mpr ⟨romBytes_length r, by simpa [romBytes] using h⟩

/-- Settles O38: each writes one value to CRC and ends; a byte that meets itself gives 0. -/
theorem crcClearAndUpdateCommands : Obligations.CrcClearAndUpdateCommands := by
  refine ⟨formatN_of_row rfl, formatI_of_row rfl,
    fun s => ⟨_, exec_crcClr s, finish_ended _, rfl, (crcz_iff _).mpr rfl, finish_setCrc_frame 0 s⟩,
    fun v s => ⟨_, exec_crcUpd v s, finish_ended _, rfl, ?_, finish_setCrc_frame _ s⟩⟩
  rintro rfl
  exact crcUpdate_self s.crc

/-- Settles O39: the CRC of the first n bytes of BUF, or the refusal of the count. -/
theorem crcBufChecksTheBuffer : Obligations.CrcBufChecksTheBuffer := by
  refine ⟨formatC_of_row rfl, fun n s h1 h9 => ?_, fun n s h =>
    ⟨_, exec_crcBuf_badCount h s, raise_ended _ _ _, endCommand_frame _ _ s⟩⟩
  refine ⟨_, exec_crcBuf h1 h9 s, finish_ended _, ?_, finish_setCrc_frame _ s⟩
  rw [finish_crc, setCrc_crc, bufBytes_from_zero]
  rfl

/-- Settles O40: the CRC of the eight bytes, which of a run of zeros is 0. -/
theorem crcRomChecksARom : Obligations.CrcRomChecksARom := by
  refine ⟨formatF_of_row rfl, fun b s =>
    ⟨_, exec_crcRom b s, finish_ended _, rfl, fun h => ?_, finish_setCrc_frame _ s⟩⟩
  rw [crcz_iff, finish_crc, setCrc_crc, romBytes_eq_replicate_zero h, crc8_replicate_zero]

end Sys2Proof.Machine
end

section
/-! PROOFS. The statements about the search commands (42_rom_search.md R206 to R213): SEARCH_INIT, the ways
SEARCH_NEXT ends, and ROM_TAKE. -/

namespace Sys2Proof.Machine

/-! ### Runs of slots -/

/-- A run of slots after another is one run (R154). -/
theorem Ran.issued {s t : State} {xs : List Slot} {n len : Nat} (h : Ran s t xs n len) (ys : List Slot)
    (m k : Nat) : Ran s (issued ys m k t) (xs ++ ys) (n + m) (len + k) := by
  obtain ⟨htrace, hticks, hline, hdraws, -, -⟩ := h
  refine ⟨?_, ?_, ?_, ?_, rfl, rfl⟩
  · simp [htrace]
  · simp [hticks, Nat.add_assoc]
  · simp [Sys2Proof.Machine.issued, State.skipSamples, hline]
  · simp [Sys2Proof.Machine.issued, State.skipSamples, hline, hdraws]
    omega

theorem searchEntry_ran (s : State) :
    Ran s (searchEntry s) (.reset true :: txSlots [config.cmdSearchRom]) 1 1472 :=
  ran_issued_prologue s _ _ _

/-! ### The loop from its entry (R207) -/

@[simp] theorem searchEntry_sampleAt (s : State) (k : Nat) :
    (searchEntry s).sampleAt k = s.sampleAt (1 + k) :=
  sampleAt_issued (.reset true :: txSlots [config.cmdSearchRom]) 1 1472 k (prologue (setFound false s))

@[simp] theorem withWork_sampleAt (w : Rom) (nd p : Pos) (a c : Bool) (s : State) (k : Nat) :
    (withWork w nd p a c s).sampleAt k = s.sampleAt k := rfl

/-- Position i is a collision that the branch rule resolves by 1 (R204). -/
def ResolvedByOne (s : State) (i : Nat) : Prop := collides s i = true ∧ choiceAt s i = true

theorem turnChoice_searchEntry (s : State) {i : Nat} (hi : i ≤ 64) :
    turnChoice 64 (searchEntry s) i = choiceAt s i := by
  have hc : 1 + (2 * (64 - i) + 1) = 2 + 2 * (64 - i) := by omega
  simp only [turnChoice, searchEntry_sampleAt, hc, choose, takesBranchOne_eq _ _ _ hi]
  rfl

theorem turnNoted_searchEntry_iff (s : State) {i : Nat} (hi : i ≤ 64) :
    turnNoted 64 (searchEntry s) i = true ↔ ResolvedByOne s i := by
  have hc : 1 + (2 * (64 - i) + 1) = 2 + 2 * (64 - i) := by omega
  simp only [turnNoted, turnChoice_searchEntry s hi, searchEntry_sampleAt, hc]
  exact Bool.and_eq_true_iff

theorem turnSlots_searchEntry (s : State) {m : Nat} (hm : m ≤ 64) :
    turnSlots m 64 (searchEntry s) = positionsDown s m := by
  refine List.flatMap_congr fun k hk => ?_
  have hk : k < m := List.mem_range.mp hk
  have hi : 64 - (64 - k) = k := by omega
  have hc : 1 + (2 * k + 1) = 2 + 2 * k := by omega
  simp only [positionSlots, idSample, compSample, turnChoice_searchEntry s (Nat.sub_le 64 k),
    searchEntry_sampleAt, hi, hc]

/-- The search of s has gone through its first m positions, all answered, and reached u (R203 to R205, R211): the slots,
the path in WROM, the last collision resolved by branch 1 in NDISC, and SROM and LDISC not yet written. -/
structure Searched (m : Nat) (s u : State) : Prop where
  ran : Ran s u (.reset true :: txSlots [config.cmdSearchRom] ++ positionsDown s m) (1 + 2 * m)
    (1472 + 160 * m)
  sampleAt : ∀ k, u.sampleAt k = s.sampleAt (1 + 2 * m + k)
  presence : u.presence = true
  found : u.found = false
  spul : u.spul = false
  srom : u.srom = s.srom
  ldisc : u.ldisc = s.ldisc
  wrom : ∀ i, 64 - m < i → i ≤ 64 → romBit u.wrom i = choiceAt s i
  ndisc : (u.ndisc = 0 ∧ ∀ i, 64 - m < i → i ≤ 64 → ¬ ResolvedByOne s i) ∨
    ∃ i, 64 - m < i ∧ i ≤ 64 ∧ u.ndisc = BitVec.ofNat 7 i ∧ ResolvedByOne s i ∧
      ∀ j, 64 - m < j → j < i → ¬ ResolvedByOne s j

theorem searched_searchEntry (s : State) : Searched 0 s (searchEntry s) where
  ran := by simpa [positionsDown] using searchEntry_ran s
  sampleAt := searchEntry_sampleAt s
  presence := rfl
  found := rfl
  spul := rfl
  srom := rfl
  ldisc := rfl
  wrom i h1 h2 := by omega
  ndisc := .inl ⟨rfl, fun i h1 h2 => by omega⟩

theorem searched_walk (s : State) {m : Nat} (hm : m ≤ 64) : Searched m s (walk m 64 (searchEntry s)) := by
  cases m with
  | zero => exact searched_searchEntry s
  | succ m =>
    have hnot {i : Nat} (hi : i ≤ 64) (h : turnNoted 64 (searchEntry s) i = false) : ¬ ResolvedByOne s i := by
      rw [← turnNoted_searchEntry_iff s hi, h]
      decide
    obtain ⟨w, nd, p, a, c, hwalk, hw, hnd⟩ := walk_eq m 64 (searchEntry s) hm (Nat.le_refl 64)
    rw [hwalk, turnSlots_searchEntry s hm]
    refine ⟨(searchEntry_ran s).issued _ _ _, fun k => ?_, rfl, rfl, rfl, rfl, rfl, fun i h1 h2 => ?_, ?_⟩
    · rw [withWork_sampleAt, sampleAt_issued, searchEntry_sampleAt, Nat.add_assoc]
    · exact (hw i (by omega) h2).trans ((if_pos ⟨h1, h2⟩).trans (turnChoice_searchEntry s h2))
    · rcases hnd with ⟨hz, hnone⟩ | ⟨i, h1, h2, hi, hsome, hnone⟩
      · exact .inl ⟨hz, fun j h3 h4 => hnot h4 (hnone j h3 h4)⟩
      · exact .inr ⟨i, h1, h2, hi, (turnNoted_searchEntry_iff s h2).mp hsome, fun j h3 h4 =>
          hnot (h4.le.trans h2) (hnone j h3 h4)⟩

/-! ### The ends of SEARCH_NEXT (R207 to R212) -/

theorem exec_searchNext_refused {s : State} (hl : s.ldisc = 0) :
    exec .searchNext s = .next (raise .invalidArgument 5 s) :=
  (execSearchNext_eq s).trans (congrArg _ (if_pos hl))

theorem exec_searchNext_absent {s : State} (hl : s.ldisc ≠ 0) (hp : s.sampleAt 0 = true) :
    exec .searchNext s = .next (raise .busAbsent 0 (searchAbsent s)) :=
  (execSearchNext_eq s).trans (by rw [if_neg hl, hp, if_neg (by decide)])

/-- With presence and the positions above r answered the loop goes through them and on from r. -/
theorem exec_searchNext_walk {s : State} (hl : s.ldisc ≠ 0) (hp : s.sampleAt 0 = false) {r : Nat}
    (hr : r ≤ 64) (h : ∀ j, r < j → j ≤ 64 → ¬ (idSample s j = true ∧ compSample s j = true)) :
    ∃ u, Searched (64 - r) s u ∧ exec .searchNext s = .next (searchFrom r u) := by
  refine ⟨_, searched_walk s (Nat.sub_le 64 r), (execSearchNext_eq s).trans ?_⟩
  rw [if_neg hl, if_pos hp]
  have hwalk := searchFrom_walk (64 - r) r (searchEntry s) fun k hk => ?_
  · rw [Nat.sub_add_cancel hr] at hwalk
    rw [hwalk]
  · have hj := h (64 - k) (by omega) (Nat.sub_le 64 k)
    have hi : 64 - (64 - k) = k := by omega
    have hc : 1 + (2 * k + 1) = 2 + 2 * k := by omega
    simpa only [idSample, compSample, hi, searchEntry_sampleAt, hc] using hj

theorem raise_searchAbsent_frame (s : State) :
    sameExcept (endFields ++ busFields ++ [.presence, .found, .ldisc]) s (raise .busAbsent 0 (searchAbsent s)) := by
  have hb : busFields ⊆ busFields ++ [.presence, .found, .ldisc] := List.subset_append_left _ _
  have hp := ((Keeps.refl _ s).setFound (by decide) false).prologue hb
  have ha := ((hp.issued hb [.reset false] 1 960).setPresence (by decide) false).update
    (setLdisc_frame 0 _) (by decide) fun hr => hr.setLdisc (by decide)
  exact (ha.raise (c := .busAbsent) (n := 0) rfl).frame

/-- Settles O43: BusAbsent after the reset slot, with FOUND and LDISC cleared. -/
theorem searchWithoutPresenceEndsTheScan : Obligations.SearchWithoutPresenceEndsTheScan :=
  fun s hl hp => ⟨_, exec_searchNext_absent hl hp,
    ⟨raise_ended _ _ _, ran_issued_prologue s _ _ _, rfl, rfl, raise_searchAbsent_frame s⟩,
    rfl, rfl, rfl, rfl⟩

/-- Settles O44: the loop goes through the positions above i and ends after the two read slots of i. -/
theorem searchWithoutAnswerKeepsTheScan : Obligations.SearchWithoutAnswerKeepsTheScan := by
  intro s i hl hp h1 h64 hid hcomp habove
  obtain ⟨u, hu, hx⟩ := exec_searchNext_walk hl hp h64 habove
  have hs0 : u.sampleAt 0 = true := (hu.sampleAt 0).trans hid
  have hs1 : u.sampleAt 1 = true := by
    rw [hu.sampleAt 1, ← hcomp, compSample]
    congr 1
    omega
  obtain ⟨n, rfl⟩ := Nat.exists_eq_add_of_le' h1
  rw [searchFrom_succ, if_pos (by rw [hs0, hs1]; rfl)] at hx
  have hr := hu.ran.issued [.read true, .read true] 2 96
  have ht : 1472 + 160 * (64 - (n + 1)) + 96 = 1568 + 160 * (64 - (n + 1)) := by omega
  rw [ht] at hr
  refine ⟨_, hx, raise_ended _ _ _, ?_, hu.srom, hu.ldisc, hu.found, hu.presence, hu.spul, exec_frame hx⟩
  rw [positionRead, hs0, hs1]
  exact hr

/-- Settles O45: the loop goes through all 64 positions, and the working copies are committed. -/
theorem searchFollowsTheBranchRule : Obligations.SearchFollowsTheBranchRule := by
  refine ⟨formatN_of_row rfl, fun s hl hp h => ?_⟩
  obtain ⟨u, hu, hx⟩ := exec_searchNext_walk hl hp (Nat.zero_le 64) h
  refine ⟨_, hx, finish_ended _, hu.ran, hu.presence, rfl, hu.spul, fun i h1 h2 => ?_, ?_, exec_frame hx⟩
  · refine (hu.wrom i h1 h2).trans ?_
    simp [choiceAt, collides]
  · rcases hu.ndisc with ⟨hz, hnone⟩ | ⟨i, h1, h2, hi, hsome, hnone⟩
    · exact .inl ⟨hz, hnone⟩
    · have hn : u.ndisc.toNat = i := by rw [hi, toNat_ofNat_position h2]
      refine .inr ?_
      rw [searchFrom, finish_ldisc, commitSearch_ldisc, hn]
      obtain ⟨hc, hb⟩ := hsome
      exact ⟨h1, h2, hc, hb, hnone⟩

/-- Settles O42: the refusal is a `raise` and nothing before it. -/
theorem searchAfterTheEndIsRefused : Obligations.SearchAfterTheEndIsRefused :=
  fun s hl => ⟨_, exec_searchNext_refused hl, raise_ended _ _ _, endCommand_frame _ _ s⟩

/-! ### SEARCH_INIT and ROM_TAKE (R206, R213) -/

theorem exec_searchInit (s : State) : exec .searchInit s = .next (finish
    { s with srom := Vector.replicate 8 0x00, ldisc := config.ldiscInit, found := false }) := rfl

theorem exec_romTake (s : State) : exec .romTake s = .next (finish { s with rom := s.srom }) := rfl

theorem byteAt_replicate_zero {n : Nat} (k : Nat) : byteAt (Vector.replicate n (0 : Byte)) k = 0 := by
  by_cases h : k < n <;> simp [byteAt, h]

/-- Settles O41: the three registers of the search, and the end. -/
theorem searchInitRestartsTheScan : Obligations.SearchInitRestartsTheScan :=
  ⟨formatN_of_row rfl, fun s => ⟨_, exec_searchInit s, finish_ended _, fun k _ => byteAt_replicate_zero k,
    rfl, rfl, rfl, ((searchInit_frame s _ _ _).mono (List.subset_append_left _ _)).trans
      ((endCommand_frame .ok 0 _).mono (List.subset_append_right _ _))⟩⟩

/-- Settles O48: one copy, and the end. -/
theorem romTakeCopiesTheResult : Obligations.RomTakeCopiesTheResult :=
  ⟨formatN_of_row rfl, fun s => ⟨_, exec_romTake s, finish_ended _, rfl,
    ((romTake_frame s s.srom).mono (by simp)).trans
      ((endCommand_frame .ok 0 _).mono (List.subset_cons_self _ _))⟩⟩

end Sys2Proof.Machine
end

section
/-! PROOFS. The statements about a scan of a fixed set of devices (42_rom_search.md R201, R203, R214, R215): the order
of the ROMs on the wire, what an iteration does when the devices answer it, and the run of all iterations. -/

namespace Sys2Proof.Machine

/-! ### Agreement above a position, and the order of R214 -/

/-- Position i splits the ROMs d and r: they agree above it, d has 0 there and r has 1. -/
def SplitAt (i : Nat) (d r : Rom) : Prop := agreeAbove i r d ∧ romBit d i = false ∧ romBit r i = true

theorem openBranch_iff {devs : List Rom} {r : Rom} {i : Nat} :
    openBranch devs r i ↔ ∃ d ∈ devs, SplitAt i d r :=
  ⟨fun ⟨hr, d, hd, ha, hb⟩ => ⟨d, hd, ha, hb, hr⟩, fun ⟨d, hd, ha, hb, hr⟩ => ⟨hr, d, hd, ha, hb⟩⟩

theorem agreeAbove.symm {i : Nat} {r q : Rom} (h : agreeAbove i r q) : agreeAbove i q r :=
  fun j h1 h2 => (h j h1 h2).symm

theorem agreeAbove.trans {i : Nat} {r q p : Rom} (h : agreeAbove i r q) (k : agreeAbove i q p) :
    agreeAbove i r p :=
  fun j h1 h2 => (h j h1 h2).trans (k j h1 h2)

theorem agreeAbove.mono {i j : Nat} {r q : Rom} (h : agreeAbove i r q) (hij : i ≤ j) : agreeAbove j r q :=
  fun k h1 h2 => h k (hij.trans_lt h1) h2

theorem agreeAbove_top (r q : Rom) : agreeAbove 64 r q := fun _ h1 h2 => absurd h1 h2.not_gt

/-- One position further down. -/
theorem agreeAbove_pred {i : Nat} {r q : Rom} (h1 : 1 ≤ i) (h64 : i ≤ 64) :
    agreeAbove (i - 1) r q ↔ agreeAbove i r q ∧ romBit r i = romBit q i := by
  refine ⟨fun h => ⟨h.mono (Nat.sub_le i 1), h i (by omega) h64⟩, fun ⟨h, hi⟩ j hj hj' => ?_⟩
  rcases Nat.lt_or_ge i j with hij | hij
  · exact h j hij hj'
  · obtain rfl : j = i := by omega
    exact hi

/-- Agreement goes down from the first position on the wire as far as each position preserves it. -/
theorem agreeAbove_of_step {n : Nat} {r q : Rom}
    (h : ∀ i, n < i → i ≤ 64 → agreeAbove i r q → romBit r i = romBit q i) : agreeAbove n r q := by
  have hdown (m : Nat) (hm : n + m ≤ 64) : agreeAbove (64 - m) r q := by
    induction m with
    | zero => exact agreeAbove_top r q
    | succ m ih =>
      have ha := ih (by omega)
      exact (agreeAbove_pred (by omega) (Nat.sub_le 64 m)).mpr ⟨ha, h _ (by omega) (Nat.sub_le 64 m) ha⟩
  rcases Nat.lt_or_ge 64 n with hn | hn
  · exact (agreeAbove_top r q).mono hn.le
  · have hm := hdown (64 - n) (by omega)
    rwa [Nat.sub_sub_self hn] at hm

theorem wireValue_eq_iff (r q : Rom) {n : Nat} (hn : n ≤ 64) :
    wireValue r n = wireValue q n ↔ agreeAbove (64 - n) r q := by
  induction n with
  | zero => exact iff_of_true rfl (agreeAbove_top r q)
  | succ n ih =>
    rw [Nat.sub_succ, Nat.pred_eq_sub_one, agreeAbove_pred (by omega) (Nat.sub_le 64 n), ← ih (by omega)]
    simp only [wireValue]
    cases romBit r (64 - n) <;> cases romBit q (64 - n) <;> simp <;> omega

/-- Of two ROMs the one with 0 where they split comes later (R214). -/
theorem wireValue_lt_iff (d r : Rom) {n : Nat} (hn : n ≤ 64) :
    wireValue d n < wireValue r n ↔ ∃ i, 64 - n < i ∧ i ≤ 64 ∧ SplitAt i d r := by
  induction n with
  | zero => exact iff_of_false (Nat.lt_irrefl 0) fun ⟨i, h1, h2, _⟩ => h1.not_ge h2
  | succ n ih =>
    have hdigit : wireValue d (n + 1) < wireValue r (n + 1) ↔ wireValue d n < wireValue r n ∨
        wireValue r n = wireValue d n ∧ romBit d (64 - n) = false ∧ romBit r (64 - n) = true := by
      simp only [wireValue]
      cases romBit d (64 - n) <;> cases romBit r (64 - n) <;> simp <;> omega
    rw [hdigit, ih (by omega), wireValue_eq_iff r d (by omega)]
    constructor
    · rintro (⟨i, h1, h2, hs⟩ | hs)
      · exact ⟨i, by omega, h2, hs⟩
      · exact ⟨64 - n, by omega, Nat.sub_le 64 n, hs⟩
    · rintro ⟨i, h1, h2, hs⟩
      rcases Nat.lt_or_ge (64 - n) i with hi | hi
      · exact .inl ⟨i, hi, h2, hs⟩
      · obtain rfl : i = 64 - n := by omega
        exact .inr hs

theorem wireOrder_lt_iff {d r : Rom} : wireOrder d < wireOrder r ↔ ∃ i, 1 ≤ i ∧ i ≤ 64 ∧ SplitAt i d r :=
  wireValue_lt_iff d r (Nat.le_refl 64)

theorem wireOrder_injective : Function.Injective wireOrder := fun r q h =>
  rom_eq_of_romBit r q fun i h1 h2 => (wireValue_eq_iff r q (Nat.le_refl 64)).mp h i h1 h2

/-- No collision of the path r was resolved by 1 exactly if r is the last of the devices (R214). -/
theorem no_openBranch_iff {devs : List Rom} {r : Rom} :
    (∀ i, 1 ≤ i → i ≤ 64 → ¬ openBranch devs r i) ↔ ∀ d ∈ devs, wireOrder r ≤ wireOrder d := by
  simp only [openBranch_iff, ← Nat.not_lt, wireOrder_lt_iff]
  exact ⟨fun h d hd ⟨i, h1, h2, hs⟩ => h i h1 h2 ⟨d, hd, hs⟩,
    fun h i h1 h2 ⟨d, hd, hs⟩ => h d hd ⟨i, h1, h2, hs⟩⟩

/-! ### The devices in the running (R203, R205) -/

/-- The devices still in the running after the first n positions of a path. -/
def inRunning (devs : List Rom) (path : Nat → Bool) : Nat → List Rom
  | 0 => devs
  | n + 1 => survivors (inRunning devs path n) (64 - n) (path (64 - n))

theorem mem_survivors {running : List Rom} {i : Nat} {b : Bool} {d : Rom} :
    d ∈ survivors running i b ↔ d ∈ running ∧ romBit d i = b := by
  simp [survivors]

theorem mem_inRunning {devs : List Rom} {path : Nat → Bool} {n : Nat} (hn : n ≤ 64) {d : Rom} :
    d ∈ inRunning devs path n ↔ d ∈ devs ∧ ∀ j, 64 - n < j → j ≤ 64 → romBit d j = path j := by
  induction n with
  | zero => exact ⟨fun h => ⟨h, fun j h1 h2 => absurd h1 h2.not_gt⟩, And.left⟩
  | succ n ih =>
    rw [inRunning, mem_survivors, ih (by omega), and_assoc, and_congr_right_iff]
    refine fun _ => ⟨fun ⟨h, hi⟩ j h1 h2 => ?_, fun h => ⟨fun j h1 h2 => h j (by omega) h2,
      h _ (by omega) (Nat.sub_le 64 n)⟩⟩
    rcases Nat.lt_or_ge (64 - n) j with hj | hj
    · exact h j hj h2
    · obtain rfl : j = 64 - n := by omega
      exact hi

theorem idAnswer_eq_true_iff {running : List Rom} {i : Nat} :
    idAnswer running i = true ↔ ∀ d ∈ running, romBit d i = true := List.all_eq_true

theorem compAnswer_eq_true_iff {running : List Rom} {i : Nat} :
    compAnswer running i = true ↔ ∀ d ∈ running, romBit d i = false := by
  simp [compAnswer]

/-- A bit that no answer of the running devices contradicts leaves one of them in the running. -/
theorem survivors_ne_nil {running : List Rom} {i : Nat} {b : Bool} (h1 : idAnswer running i = true → b = true)
    (h0 : compAnswer running i = true → b = false) : survivors running i b ≠ [] := by
  intro hnil
  have hnone (d : Rom) (hd : d ∈ running) : romBit d i ≠ b := fun hb =>
    List.not_mem_nil (hnil ▸ mem_survivors.mpr ⟨hd, hb⟩)
  cases b with
  | true => exact absurd (h0 (compAnswer_eq_true_iff.mpr fun d hd => by simpa using hnone d hd)) (by decide)
  | false => exact absurd (h1 (idAnswer_eq_true_iff.mpr fun d hd => by simpa using hnone d hd)) (by decide)

/-! ### Answered positions -/

/-- After n positions of its path the samples of the search of s are the answers of the devices in the running. -/
def AnsweredAt (devs : List Rom) (s : State) (n : Nat) : Prop :=
  idSample s (64 - n) = idAnswer (inRunning devs (choiceAt s) n) (64 - n) ∧
    compSample s (64 - n) = compAnswer (inRunning devs (choiceAt s) n) (64 - n)

/-- No device answers position i: both bits are 1 (R208). -/
def Silent (s : State) (i : Nat) : Prop := idSample s i = true ∧ compSample s i = true

theorem positionsAnswered_cons_iff {i : Nat} {running : List Rom} {a c b : Bool} {rest : List Slot} :
    positionsAnswered (i + 1) running (.read a :: .read c :: .write b :: rest) = true ↔
      (a = idAnswer running (i + 1) ∧ c = compAnswer running (i + 1)) ∧
        positionsAnswered i (survivors running (i + 1) b) rest = true := by
  simp [positionsAnswered]

theorem positionsAnswered_reads_iff {i : Nat} {running : List Rom} {a c : Bool} :
    positionsAnswered (i + 1) running [.read a, .read c] = true ↔
      a = idAnswer running (i + 1) ∧ c = compAnswer running (i + 1) := by
  simp [positionsAnswered]

theorem positionsDown_succ (s : State) (n : Nat) :
    positionsDown s (n + 1) = positionsDown s n ++ positionSlots s (64 - n) := by
  simp [positionsDown, List.range_succ]

theorem answered_of_positionsDown {devs : List Rom} {s : State} {n : Nat} (hn : n ≤ 64) {rest : List Slot}
    (h : positionsAnswered 64 devs (positionsDown s n ++ rest) = true) :
    (∀ k, k < n → AnsweredAt devs s k) ∧
      positionsAnswered (64 - n) (inRunning devs (choiceAt s) n) rest = true := by
  induction n generalizing rest with
  | zero => exact ⟨fun k hk => absurd hk (Nat.not_lt_zero k), h⟩
  | succ n ih =>
    rw [positionsDown_succ, List.append_assoc] at h
    obtain ⟨hbefore, hrest⟩ := ih (by omega) h
    have hi : 64 - n = 64 - (n + 1) + 1 := by omega
    rw [hi] at hrest
    obtain ⟨hhere, hafter⟩ := positionsAnswered_cons_iff.mp hrest
    rw [← hi] at hhere hafter
    refine ⟨fun k hk => ?_, hafter⟩
    rcases Nat.lt_succ_iff_lt_or_eq.mp hk with hk | rfl
    · exact hbefore k hk
    · exact hhere

/-- While every position was answered, some device is in the running. -/
theorem inRunning_ne_nil {devs : List Rom} {s : State} (hne : devs ≠ []) {n : Nat}
    (ha : ∀ k, k < n → AnsweredAt devs s k) (hr : ∀ k, k < n → ¬ Silent s (64 - k)) :
    inRunning devs (choiceAt s) n ≠ [] := by
  cases n with
  | zero => exact hne
  | succ n =>
    obtain ⟨hid, hcomp⟩ := ha n n.lt_succ_self
    have hresp := hr n n.lt_succ_self
    refine survivors_ne_nil (fun h => ?_) fun h => ?_
    · rw [← hid] at h
      simp [choiceAt, collides, h]
    · rw [← hcomp] at h
      have h0 : idSample s (64 - n) = false := by simpa [Silent, h] using hresp
      simp [choiceAt, collides, h, h0]

/-! ### The slots of a SEARCH_NEXT -/

theorem Ran.newSlots_eq {s t : State} {xs : List Slot} {n len : Nat} (h : Ran s t xs n len) :
    newSlots s t = xs := by
  obtain ⟨htrace, -⟩ := h
  rw [newSlots, htrace, List.drop_left]

theorem iterationAnswered_absent_iff {devs : List Rom} :
    iterationAnswered devs [.reset false] = true ↔ devs = [] := by
  simp [iterationAnswered]

theorem iterationAnswered_present_iff {devs : List Rom} {v : Byte} {xs : List Slot} :
    iterationAnswered devs (.reset true :: txSlots [v] ++ xs) = true ↔
      devs ≠ [] ∧ positionsAnswered 64 devs xs = true := by
  have hdrop : (txSlots [v] ++ xs).drop 8 = xs := List.drop_left' (by simp [txSlots])
  rw [List.cons_append, iterationAnswered, hdrop]
  simp

/-- Either no position is silent, or there is a silent one that is the first on the wire. -/
theorem no_silent_or_first (s : State) : (∀ i, 1 ≤ i → i ≤ 64 → ¬ Silent s i) ∨
    ∃ i, 1 ≤ i ∧ i ≤ 64 ∧ Silent s i ∧ ∀ j, i < j → j ≤ 64 → ¬ Silent s j := by
  classical
  by_cases h : ∃ i, 1 ≤ i ∧ i ≤ 64 ∧ Silent s i
  · obtain ⟨i, h1, h64, hi⟩ := h
    exact .inr ⟨Nat.findGreatest (Silent s) 64, h1.trans (Nat.le_findGreatest h64 hi), Nat.findGreatest_le 64,
      Nat.findGreatest_spec h64 hi, fun j hj hj64 => Nat.findGreatest_is_greatest hj hj64⟩
  · exact .inl fun i h1 h64 hi => h ⟨i, h1, h64, hi⟩

section
variable {devs : List Rom} {s t : State} (hl : s.ldisc ≠ 0) (hx : execSearchNext s = .next t)
include hl hx

/-- The slots of a SEARCH_NEXT with presence: those of all positions, or of the positions above the first silent
one and its two reads (R207, R208). -/
theorem newSlots_of_present (hp : s.sampleAt 0 = false) :
    (∀ i, 1 ≤ i → i ≤ 64 → ¬ Silent s i) ∧
      newSlots s t = .reset true :: txSlots [config.cmdSearchRom] ++ positionsDown s 64 ∨
    ∃ i, 1 ≤ i ∧ i ≤ 64 ∧ (∀ j, i < j → j ≤ 64 → ¬ Silent s j) ∧
      newSlots s t = .reset true :: txSlots [config.cmdSearchRom] ++
        (positionsDown s (64 - i) ++ [.read true, .read true]) := by
  rcases no_silent_or_first s with hall | ⟨i, h1, h64, ⟨hid, hcomp⟩, habove⟩
  · obtain ⟨u, hu, -, hran, -⟩ := searchFollowsTheBranchRule.2 s hl hp hall
    cases hx.symm.trans hu
    exact .inl ⟨hall, hran.newSlots_eq⟩
  · obtain ⟨u, hu, -, hran, -⟩ := searchWithoutAnswerKeepsTheScan s i hl hp h1 h64 hid hcomp habove
    cases hx.symm.trans hu
    exact .inr ⟨i, h1, h64, habove, by rw [hran.newSlots_eq, List.append_assoc]⟩

variable (ha : iterationAnswered devs (newSlots s t) = true)
include ha

/-- The first sample tells whether there is a device (R142). -/
theorem sampleAt_zero_iff : s.sampleAt 0 = true ↔ devs = [] := by
  cases hp : s.sampleAt 0 with
  | true =>
    obtain ⟨u, hu, ⟨-, hran, -⟩, -⟩ := searchWithoutPresenceEndsTheScan s hl hp
    cases hx.symm.trans hu
    rw [hran.newSlots_eq, iterationAnswered_absent_iff] at ha
    exact iff_of_true rfl ha
  | false =>
    refine iff_of_false (by decide) ?_
    rcases newSlots_of_present hl hx hp with ⟨-, hs⟩ | ⟨i, -, -, -, hs⟩ <;>
      rw [hs, iterationAnswered_present_iff] at ha <;> exact ha.1

/-- Devices that answer leave no position silent, and each pair of samples is their answer. -/
theorem answered_of_iterationAnswered (hne : devs ≠ []) :
    (∀ i, 1 ≤ i → i ≤ 64 → ¬ Silent s i) ∧ ∀ k, k < 64 → AnsweredAt devs s k := by
  have hp : s.sampleAt 0 = false := by
    rw [← Bool.not_eq_true, sampleAt_zero_iff hl hx ha]
    exact hne
  rcases newSlots_of_present hl hx hp with ⟨hall, hs⟩ | ⟨i, h1, h64, habove, hs⟩
  · rw [hs, iterationAnswered_present_iff, ← List.append_nil (positionsDown s 64)] at ha
    exact ⟨hall, (answered_of_positionsDown (Nat.le_refl 64) ha.2).1⟩
  · rw [hs, iterationAnswered_present_iff] at ha
    obtain ⟨hbefore, hreads⟩ := answered_of_positionsDown (Nat.sub_le 64 i) ha.2
    have hrun := inRunning_ne_nil hne hbefore fun k hk => habove _ (by omega) (Nat.sub_le 64 k)
    obtain ⟨n, rfl⟩ := Nat.exists_eq_add_of_le' h1
    rw [Nat.sub_sub_self h64, positionsAnswered_reads_iff, eq_comm, idAnswer_eq_true_iff, eq_comm,
      compAnswer_eq_true_iff] at hreads
    obtain ⟨hone, hzero⟩ := hreads
    obtain ⟨d, hd⟩ := List.exists_mem_of_ne_nil _ hrun
    exact absurd ((hone d hd).symm.trans (hzero d hd)) (by decide)

end

/-! ### One iteration against the devices (R203, R204) -/

/-- What an answered iteration from s to t does in terms of the devices: it finds one of them; where another leaves its
path, the path follows the branch rule (R204); and LDISC is the last branch left open, or 0 (R201). -/
structure Iteration (devs : List Rom) (s t : State) : Prop where
  cause : t.cause = .ok
  found : t.found = true
  mem : t.srom ∈ devs
  fork : ∀ i d, 1 ≤ i → i ≤ 64 → d ∈ devs → agreeAbove i t.srom d → romBit d i ≠ romBit t.srom i →
    romBit t.srom i = (decide (s.ldisc.toNat > i) || (romBit s.srom i && decide (s.ldisc.toNat ≠ i)))
  ldisc : (t.ldisc = 0 ∧ ∀ i, 1 ≤ i → i ≤ 64 → ¬ openBranch devs t.srom i) ∨
    (1 ≤ t.ldisc.toNat ∧ t.ldisc.toNat ≤ 64 ∧ openBranch devs t.srom t.ldisc.toNat ∧
      ∀ i, 1 ≤ i → i < t.ldisc.toNat → ¬ openBranch devs t.srom i)

/-- On the path r the samples collide exactly where a device leaves it (R203). -/
theorem collides_iff {devs : List Rom} {s : State} {r : Rom} (ha : ∀ k, k < 64 → AnsweredAt devs s k)
    (hr : r ∈ devs) (hpath : ∀ i, 1 ≤ i → i ≤ 64 → romBit r i = choiceAt s i) {i : Nat} (h1 : 1 ≤ i)
    (h64 : i ≤ 64) : collides s i = true ↔ ∃ d ∈ devs, agreeAbove i r d ∧ romBit d i ≠ romBit r i := by
  have hrun (d : Rom) : d ∈ inRunning devs (choiceAt s) (64 - i) ↔ d ∈ devs ∧ agreeAbove i r d := by
    rw [mem_inRunning (Nat.sub_le 64 i), Nat.sub_sub_self h64]
    refine and_congr_right fun _ => forall_congr' fun j => forall_congr' fun hj => forall_congr' fun hj' => ?_
    rw [hpath j (h1.trans hj.le) hj', eq_comm]
  have hr' := (hrun r).mpr ⟨hr, fun _ _ _ => rfl⟩
  obtain ⟨hid, hcomp⟩ := ha (64 - i) (by omega)
  rw [Nat.sub_sub_self h64] at hid hcomp
  rw [collides, hid, hcomp, Bool.and_eq_true, Bool.not_eq_true', Bool.not_eq_true', ← Bool.not_eq_true,
    ← Bool.not_eq_true, idAnswer_eq_true_iff, compAnswer_eq_true_iff]
  constructor
  · rintro ⟨hzero, hone⟩
    by_contra hall
    have hsame (d : Rom) (hd : d ∈ inRunning devs (choiceAt s) (64 - i)) : romBit d i = romBit r i := by
      obtain ⟨hd, hagree⟩ := (hrun d).mp hd
      exact by_contra fun hdiff => hall ⟨d, hd, hagree, hdiff⟩
    cases hb : romBit r i with
    | true => exact hzero fun d hd => (hsame d hd).trans hb
    | false => exact hone fun d hd => (hsame d hd).trans hb
  · rintro ⟨d, hd, hagree, hne⟩
    have hd' := (hrun d).mpr ⟨hd, hagree⟩
    exact ⟨fun h => hne ((h d hd').trans (h r hr').symm), fun h => hne ((h d hd').trans (h r hr').symm)⟩

theorem iteration_of_answered {devs : List Rom} {s t : State} (hne : devs ≠ []) (hl : s.ldisc ≠ 0)
    (hx : execSearchNext s = .next t) (ha : iterationAnswered devs (newSlots s t) = true) :
    Iteration devs s t := by
  have hp : s.sampleAt 0 = false := by
    rw [← Bool.not_eq_true, sampleAt_zero_iff hl hx ha]
    exact hne
  obtain ⟨hresp, hans⟩ := answered_of_iterationAnswered hl hx ha hne
  obtain ⟨u, hu, ⟨hcause, -⟩, -, -, hfound, -, hbits, hldisc, -⟩ := searchFollowsTheBranchRule.2 s hl hp hresp
  cases hx.symm.trans hu
  have hpath (i : Nat) (h1 : 1 ≤ i) (h64 : i ≤ 64) : romBit t.srom i = choiceAt s i := by
    rw [hbits i h1 h64]
    simp [choiceAt, collides]
  have hmem : t.srom ∈ devs := by
    have hrun := inRunning_ne_nil hne hans fun k hk => hresp _ (by omega) (Nat.sub_le 64 k)
    obtain ⟨d, hd⟩ := List.exists_mem_of_ne_nil _ hrun
    obtain ⟨hd, hbit⟩ := (mem_inRunning (Nat.le_refl 64)).mp hd
    rwa [rom_eq_of_romBit t.srom d fun i h1 h64 => (hpath i h1 h64).trans (hbit i h1 h64).symm]
  have hcoll {i : Nat} (h1 : 1 ≤ i) (h64 : i ≤ 64) := collides_iff hans hmem hpath h1 h64
  have hopen {i : Nat} (h1 : 1 ≤ i) (h64 : i ≤ 64) :
      openBranch devs t.srom i ↔ collides s i = true ∧ choiceAt s i = true := by
    rw [hcoll h1 h64, ← hpath i h1 h64, and_comm, openBranch]
    refine and_congr_right fun hb => ?_
    simp [hb]
  refine ⟨hcause, hfound, hmem, fun i d h1 h64 hd hagree hdiff => ?_, ?_⟩
  · rw [hpath i h1 h64, choiceAt, if_pos ((hcoll h1 h64).mpr ⟨d, hd, hagree, hdiff⟩)]
  · rcases hldisc with ⟨hz, hnone⟩ | ⟨h1, h64, hc, hb, hnone⟩
    · exact .inl ⟨hz, fun i h1 h64 => (hopen h1 h64).not.mpr (hnone i h1 h64)⟩
    · exact .inr ⟨h1, h64, (hopen h1 h64).mpr ⟨hc, hb⟩, fun i hi hlt =>
        (hopen hi (hlt.le.trans h64)).not.mpr (hnone i hi hlt)⟩

/-! ### Which device an iteration finds (R214) -/

namespace Iteration

variable {devs : List Rom} {s t : State} (h : Iteration devs s t)
include h

/-- A device that comes before the one found branches off by 1 where the branch rule chose 0. -/
theorem exists_split_of_lt {d : Rom} (hd : d ∈ devs) (hlt : wireOrder t.srom < wireOrder d) :
    ∃ i, 1 ≤ i ∧ i ≤ 64 ∧ SplitAt i t.srom d ∧
      (decide (s.ldisc.toNat > i) || (romBit s.srom i && decide (s.ldisc.toNat ≠ i))) = false := by
  obtain ⟨i, h1, h64, hagree, h0, hb⟩ := wireOrder_lt_iff.mp hlt
  refine ⟨i, h1, h64, ⟨hagree, h0, hb⟩, ?_⟩
  rw [← h.fork i d h1 h64 hd hagree.symm (by simp [h0, hb]), h0]

theorem ldisc_eq_zero_iff : t.ldisc = 0 ↔ ∀ d ∈ devs, wireOrder t.srom ≤ wireOrder d := by
  rw [← no_openBranch_iff]
  rcases h.ldisc with ⟨hz, hnone⟩ | ⟨h1, h64, hopen, -⟩
  · exact iff_of_true hz hnone
  · refine iff_of_false (fun hz => ?_) fun hnone => hnone _ h1 h64 hopen
    rw [hz] at h1
    exact absurd h1 (by decide)

theorem carried (hl : t.ldisc ≠ 0) : CarriedState devs t := by
  rcases h.ldisc with ⟨hz, -⟩ | hlast
  · exact absurd hz hl
  · exact ⟨h.mem, hlast⟩

/-- With LDISC = 65 every collision takes branch 1. -/
theorem le_of_first (hl : s.ldisc.toNat = 65) {d : Rom} (hd : d ∈ devs) : wireOrder d ≤ wireOrder t.srom := by
  refine Nat.not_lt.mp fun hlt => ?_
  obtain ⟨i, -, h64, -, hrule⟩ := h.exists_split_of_lt hd hlt
  have hgt : s.ldisc.toNat > i := by omega
  simp [hgt] at hrule

variable (hc : CarriedState devs s)
include hc

/-- Above LDISC the path is that of the last iteration. -/
theorem agreeAbove_last : agreeAbove s.ldisc.toNat t.srom s.srom := by
  obtain ⟨hmem, -⟩ := hc
  refine agreeAbove_of_step fun i hi h64 hagree => by_contra fun hdiff => ?_
  have hrule := h.fork i s.srom (by omega) h64 hmem hagree (Ne.symm hdiff)
  have hle : ¬ s.ldisc.toNat > i := by omega
  have hne : s.ldisc.toNat ≠ i := by omega
  simp [hle, hne] at hrule
  exact hdiff hrule

/-- At LDISC it takes the branch that the last iteration left open. -/
theorem split_last : SplitAt s.ldisc.toNat t.srom s.srom := by
  have hagree := h.agreeAbove_last hc
  obtain ⟨-, h1, h64, ⟨hone, d, hd, hds, hzero⟩, -⟩ := hc
  refine ⟨hagree.symm, by_contra fun hb => ?_, hone⟩
  have hb : romBit t.srom s.ldisc.toNat = true := by simpa using hb
  have hrule := h.fork _ d h1 h64 hd (hagree.trans hds) (by simp [hb, hzero])
  simp [hb] at hrule

theorem lt_last : wireOrder t.srom < wireOrder s.srom := by
  have hs := h.split_last hc
  obtain ⟨-, h1, h64, -⟩ := hc
  exact wireOrder_lt_iff.mpr ⟨_, h1, h64, hs⟩

/-- No device lies between the last one found and this one: leaving this path by 1 below LDISC it would break the branch
rule, above LDISC come before the last one, and at LDISC be on an open branch of the last path below LDISC. -/
theorem le_of_lt_last {d : Rom} (hd : d ∈ devs) (hlt : wireOrder d < wireOrder s.srom) :
    wireOrder d ≤ wireOrder t.srom := by
  refine Nat.not_lt.mp fun hgt => ?_
  obtain ⟨hlast, -, -⟩ := h.split_last hc
  obtain ⟨-, -, -, -, hnone⟩ := hc
  obtain ⟨j, hj1, hj64, ⟨hdt, htj, hdj⟩, hrule⟩ := h.exists_split_of_lt hd hgt
  rcases Nat.lt_trichotomy s.ldisc.toNat j with hj | rfl | hj
  · have hsj : romBit s.srom j = false := by rw [hlast j hj hj64, htj]
    exact hlt.not_gt (wireOrder_lt_iff.mpr ⟨j, hj1, hj64, hdt.trans (hlast.mono hj.le).symm, hsj, hdj⟩)
  · obtain ⟨i, h1, h64, hsd, hdi, hsi⟩ := wireOrder_lt_iff.mp hlt
    rcases Nat.lt_trichotomy i s.ldisc.toNat with hi | rfl | hi
    · exact hnone i h1 hi (openBranch_iff.mpr ⟨d, hd, hsd, hdi, hsi⟩)
    · exact absurd (hdi.symm.trans hdj) (by decide)
    · exact absurd (hdi.symm.trans ((hdt i hi h64).trans ((hlast i hi h64).symm.trans hsi))) (by decide)
  · have hgt' : s.ldisc.toNat > j := hj
    simp [hgt'] at hrule

end Iteration

theorem CarriedState.ldisc_ne_zero {devs : List Rom} {s : State} (h : CarriedState devs s) : s.ldisc ≠ 0 := by
  obtain ⟨-, h1, -⟩ := h
  intro hz
  rw [hz] at h1
  exact absurd h1 (by decide)

theorem ldisc_ne_zero_of_first {s : State} (h : s.ldisc.toNat = 65) : s.ldisc ≠ 0 := by
  intro hz
  rw [hz] at h
  exact absurd h (by decide)

/-- Settles O46: the path of an iteration is in the devices, and the branch rule makes it the next of them. -/
theorem searchFindsTheNextDeviceInWireOrder : Obligations.SearchFindsTheNextDeviceInWireOrder := by
  intro devs s t _ hne hx ha hs
  have h := iteration_of_answered hne (hs.elim ldisc_ne_zero_of_first CarriedState.ldisc_ne_zero) hx ha
  exact ⟨h.cause, h.found, h.mem, fun hl d hd => h.le_of_first hl hd,
    fun hc => ⟨h.lt_last hc, fun d hd hlt => h.le_of_lt_last hc hd hlt⟩, h.ldisc_eq_zero_iff, h.carried⟩

/-! ### A whole scan (R215) -/

/-- The devices that come after r. -/
def restBelow (devs : List Rom) (r : Rom) : List Rom := devs.filter fun d => decide (wireOrder d < wireOrder r)

/-- The devices `left` are those that the scan in state s has still to find. -/
def StillToFind (devs : List Rom) (s : State) (left : List Rom) : Prop :=
  (s.ldisc.toNat = 65 ∧ left = devs) ∨ (CarriedState devs s ∧ left = restBelow devs s.srom) ∨ left = []

/-- The states `ts` after a run of iterations find the devices `left`, one each and in descending order, and LDISC is 0
after the last and not before. -/
structure Enumerates (left : List Rom) (ts : List State) : Prop where
  ok : ∀ t ∈ ts, t.cause = .ok ∧ t.found = true
  perm : (ts.map State.srom).Perm left
  descending : (ts.map fun t => wireOrder t.srom).Pairwise (· > ·)
  last : ∀ k t, ts[k]? = some t → (t.ldisc = 0 ↔ k + 1 = ts.length)

theorem mem_restBelow {devs : List Rom} {r d : Rom} :
    d ∈ restBelow devs r ↔ d ∈ devs ∧ wireOrder d < wireOrder r := by
  simp [restBelow]

theorem restBelow_eq_nil_iff {devs : List Rom} {r : Rom} :
    restBelow devs r = [] ↔ ∀ d ∈ devs, wireOrder r ≤ wireOrder d := by
  simp [restBelow, List.filter_eq_nil_iff]

/-- The first of a list of devices and those that come after it are the list, if it is closed under coming after. -/
theorem perm_cons_restBelow {devs left : List Rom} {r : Rom} (hnodup : devs.Nodup) (hleft : left.Nodup)
    (hsub : left ⊆ devs) (hr : r ∈ left) (hfirst : ∀ d ∈ left, wireOrder d ≤ wireOrder r)
    (hafter : ∀ d ∈ devs, wireOrder d < wireOrder r → d ∈ left) : left.Perm (r :: restBelow devs r) := by
  have hnr : (r :: restBelow devs r).Nodup :=
    List.nodup_cons.mpr ⟨fun h => Nat.lt_irrefl _ (mem_restBelow.mp h).2, hnodup.filter _⟩
  refine (List.perm_ext_iff_of_nodup hleft hnr).mpr fun d => ?_
  rw [List.mem_cons, mem_restBelow]
  constructor
  · intro hd
    rcases (hfirst d hd).eq_or_lt with h | h
    · exact .inl (wireOrder_injective h)
    · exact .inr ⟨hsub hd, h⟩
  · rintro (rfl | ⟨hd, h⟩)
    · exact hr
    · exact hafter d hd h

/-- One iteration finds the first of the devices still to find and leaves the rest. -/
theorem StillToFind.next {devs left : List Rom} {s t : State} (hnodup : devs.Nodup)
    (hleft : StillToFind devs s left) (hne : left ≠ []) (hx : execSearchNext s = .next t)
    (ha : iterationAnswered devs (newSlots s t) = true) :
    t.cause = .ok ∧ t.found = true ∧ left.Perm (t.srom :: restBelow devs t.srom) ∧
      (t.ldisc = 0 ↔ restBelow devs t.srom = []) ∧ StillToFind devs t (restBelow devs t.srom) := by
  have hiter (hl : s.ldisc ≠ 0) (hdevs : devs ≠ []) : Iteration devs s t := iteration_of_answered hdevs hl hx ha
  have hstep : Iteration devs s t ∧ left.Perm (t.srom :: restBelow devs t.srom) := by
    rcases hleft with ⟨hl, rfl⟩ | ⟨hc, rfl⟩ | rfl
    · have h := hiter (ldisc_ne_zero_of_first hl) hne
      exact ⟨h, perm_cons_restBelow hnodup hnodup (List.Subset.refl _) h.mem (fun d hd => h.le_of_first hl hd)
        fun d hd _ => hd⟩
    · have h := hiter hc.ldisc_ne_zero (List.ne_nil_of_mem hc.1)
      exact ⟨h, perm_cons_restBelow hnodup (hnodup.filter _) (List.filter_subset_self _)
        (mem_restBelow.mpr ⟨h.mem, h.lt_last hc⟩)
        (fun d hd => h.le_of_lt_last hc (mem_restBelow.mp hd).1 (mem_restBelow.mp hd).2)
        fun d hd hlt => mem_restBelow.mpr ⟨hd, hlt.trans (h.lt_last hc)⟩⟩
    · exact absurd rfl hne
  obtain ⟨h, hperm⟩ := hstep
  have hlast : t.ldisc = 0 ↔ restBelow devs t.srom = [] := by
    rw [h.ldisc_eq_zero_iff, restBelow_eq_nil_iff]
  refine ⟨h.cause, h.found, hperm, hlast, ?_⟩
  by_cases hl : t.ldisc = 0
  · exact .inr (.inr (hlast.mp hl))
  · exact .inr (.inl ⟨h.carried hl, rfl⟩)

theorem Enumerates.nil : Enumerates [] [] where
  ok _ h := absurd h List.not_mem_nil
  perm := .refl []
  descending := .nil
  last k t h := by simp at h

theorem Enumerates.cons {devs left : List Rom} {t : State} {us : List State}
    (h : Enumerates (restBelow devs t.srom) us) (hok : t.cause = .ok ∧ t.found = true)
    (hperm : left.Perm (t.srom :: restBelow devs t.srom)) (hlast : t.ldisc = 0 ↔ restBelow devs t.srom = []) :
    Enumerates left (t :: us) where
  ok := List.forall_mem_cons.mpr ⟨hok, h.ok⟩
  perm := (h.perm.cons t.srom).trans hperm.symm
  descending := by
    refine List.pairwise_cons.mpr ⟨fun n hn => ?_, h.descending⟩
    obtain ⟨u, hu, rfl⟩ := List.mem_map.mp hn
    exact (mem_restBelow.mp (h.perm.subset (List.mem_map_of_mem hu))).2
  last k u hk := by
    cases k with
    | zero =>
      obtain rfl : t = u := by simpa using hk
      rw [hlast, ← List.length_eq_zero_iff, ← h.perm.length_eq, List.length_map, List.length_cons]
      omega
    | succ k => simpa using h.last k u hk

theorem enumerates_of_searchRun {devs left : List Rom} {s : State} {ts : List State} (hnodup : devs.Nodup)
    (hleft : StillToFind devs s left) (hrun : SearchRun devs s ts) (hlen : ts.length = left.length) :
    Enumerates left ts := by
  induction ts generalizing s left with
  | nil =>
    obtain rfl : left = [] := List.length_eq_zero_iff.mp hlen.symm
    exact .nil
  | cons t us ih =>
    obtain ⟨hx, ha, hrun⟩ := hrun
    have hne : left ≠ [] := by
      rintro rfl
      simp at hlen
    obtain ⟨hcause, hfound, hperm, hlast, hrest⟩ := hleft.next hnodup hne hx ha
    have hlen' : us.length = (restBelow devs t.srom).length := by
      simpa using hlen.trans hperm.length_eq
    exact (ih hrest hrun hlen').cons ⟨hcause, hfound⟩ hperm hlast

/-- The devices determine the sequence in which they are found. -/
theorem Enumerates.srom_eq {left : List Rom} {ts us : List State} (ht : Enumerates left ts)
    (hu : Enumerates left us) : us.map State.srom = ts.map State.srom := by
  have hgt {vs : List State} (h : Enumerates left vs) :
      (vs.map State.srom).Pairwise fun r q => wireOrder r > wireOrder q :=
    List.pairwise_map.mpr (List.pairwise_map.mp h.descending)
  exact List.Perm.eq_of_pairwise (fun r q _ _ h1 h2 => absurd h1 h2.not_gt) (hgt hu) (hgt ht)
    (hu.perm.trans ht.perm.symm)

theorem searchInit_starts {s t : State} (h : exec .searchInit s = .next t) : t.ldisc.toNat = 65 := by
  obtain ⟨u, hu, -, -, hl, -⟩ := searchInitRestartsTheScan.2 s
  cases h.symm.trans hu
  exact hl

/-- Settles O47: by induction on the run, each iteration finds the first of the devices still to find; with no device
the first sample is no presence. -/
theorem searchEnumeratesEveryDeviceOnce : Obligations.SearchEnumeratesEveryDeviceOnce := by
  have hrun {devs : List Rom} {s₀ s : State} {ts : List State} (hnodup : devs.Nodup)
      (hx : exec .searchInit s₀ = .next s) (hr : SearchRun devs s ts) (hlen : ts.length = devs.length) :
      Enumerates devs ts :=
    enumerates_of_searchRun hnodup (.inl ⟨searchInit_starts hx, rfl⟩) hr hlen
  refine ⟨fun devs s₀ s ts hnodup _ hx hr hlen => ?_, fun s₀ s t hx hr => ?_⟩
  · have h := hrun hnodup hx hr hlen
    exact ⟨h.ok, h.perm, h.descending, h.last, fun s₁ s₂ us hx' hr' hlen' =>
      h.srom_eq (hrun hnodup hx' hr' hlen')⟩
  · obtain ⟨hnext, ha, -⟩ := hr
    have hl := ldisc_ne_zero_of_first (searchInit_starts hx)
    obtain ⟨u, hu, ⟨⟨hcause, -⟩, -⟩, hfound, hldisc, -, hsrom⟩ :=
      searchWithoutPresenceEndsTheScan s hl ((sampleAt_zero_iff hl hnext ha).mpr rfl)
    cases hnext.symm.trans hu
    exact ⟨hcause, hldisc, hsrom, hfound⟩

end Sys2Proof.Machine
end

section
/-! PROOFS. The statement about SELECT and SKIP (43_bus_addressing.md R231 to R235): the two ends of `Address(bcast)`,
then the two commands, whose rest is the end of a command. -/

namespace Sys2Proof.Machine

/-! ### The two ends of `Address(bcast)` (R235, R292) -/

/-- The state after `Address(bcast)` with presence: the prologue, the reset slot and the bytes of the prefix. -/
def addressed (bcast : Bool) (s : State) : State :=
  setPresence true (issued (.reset true :: txSlots (addressBytes bcast s.rom)) 1 (960 + addressLength bcast)
    (prologue s))

/-- The state after the reset slot of `Address(bcast)` without presence. -/
def unanswered (s : State) : State := setPresence false (issued [.reset false] 1 960 (prologue s))

theorem address_present {s : State} (hp : s.sampleAt 0 = false) (bcast : Bool) (rest : State → State) :
    address bcast rest s = rest (addressed bcast s) :=
  (address_eq bcast rest s).trans (if_pos hp)

theorem address_absent {s : State} (hp : s.sampleAt 0 = true) (bcast : Bool) (rest : State → State) :
    address bcast rest s = raise .busAbsent 0 (unanswered s) :=
  (address_eq bcast rest s).trans (if_neg (by simp [hp]))

theorem addressed_ran (bcast : Bool) (s : State) :
    Ran s (addressed bcast s) (.reset true :: txSlots (addressBytes bcast s.rom)) 1
      (960 + addressLength bcast) :=
  ran_issued_prologue s _ _ _

theorem raise_unanswered_frame (fs : List Field) (s : State) :
    sameExcept (endFields ++ busFields ++ Field.presence :: fs) s (raise .busAbsent 0 (unanswered s)) := by
  have hb : busFields ⊆ busFields ++ Field.presence :: fs := List.subset_append_left _ _
  have hp : Field.presence ∈ busFields ++ Field.presence :: fs := by simp
  have hk := (((Keeps.refl _ s).prologue hb).issued hb [.reset false] 1 960).setPresence hp false
  rw [List.append_assoc]
  exact (hk.raise rfl).frame

/-- No presence ends a command that begins with `Address(bcast)` after its reset slot. -/
theorem raise_unanswered_endedAbsent (fs : List Field) (s : State) :
    EndedAbsent fs s (raise .busAbsent 0 (unanswered s)) :=
  ⟨raise_ended _ _ _, ran_issued_prologue s _ _ _, rfl, rfl, raise_unanswered_frame fs s⟩

/-! ### SELECT and SKIP (R233, R234) -/

theorem exec_select (s : State) : exec .select s = .next (address false finish s) := rfl

theorem exec_skip (s : State) : exec .skip s = .next (address true finish s) := rfl

/-- Settles O49: with presence the prefix and the end of the command, without presence the reset slot alone. -/
theorem selectAndSkipSendTheirPrefix : Obligations.SelectAndSkipSendTheirPrefix := by
  refine ⟨formatN_of_row rfl, formatN_of_row rfl, fun s hp => ?_, fun s hp => ?_, fun s hp => ⟨?_, ?_⟩⟩
  · have hx : exec .select s = .next (finish (addressed false s)) := by
      rw [exec_select, address_present hp]
    exact ⟨_, hx, finish_ended _, ran_finish.mpr (addressed_ran false s), rfl, rfl, exec_frame hx⟩
  · have hx : exec .skip s = .next (finish (addressed true s)) := by
      rw [exec_skip, address_present hp]
    exact ⟨_, hx, finish_ended _, ran_finish.mpr (addressed_ran true s), rfl, rfl, exec_frame hx⟩
  · exact ⟨_, by rw [exec_select, address_absent hp], raise_unanswered_endedAbsent [] s⟩
  · exact ⟨_, by rw [exec_skip, address_absent hp], raise_unanswered_endedAbsent [] s⟩

end Sys2Proof.Machine
end

section
/-! PROOFS. The statements about the DS18x20 exchanges and the scratchpad decoder (44_ds18x20.md R241 to R264): the CRC
sees a flipped bit, each exchange as its addressing, its bytes and its end, the reading, the resolution, and SPUL. -/

namespace Sys2Proof.Machine

/-! ### A changed byte changes the CRC (R244) -/

theorem eq_zero_of_crcShift_eq_zero : ∀ a : Byte, crcShift a = 0 → a = 0 := by decide

theorem crcShift_injective : Function.Injective crcShift := by
  intro a b h
  refine BitVec.xor_eq_zero_iff.mp (eq_zero_of_crcShift_eq_zero _ ?_)
  rw [crcShift_xor, h, BitVec.xor_self]
  rfl

theorem crcShifts_injective (n : Nat) : Function.Injective (crcShifts n) := by
  induction n with
  | zero => exact fun _ _ h => h
  | succ n ih => exact fun _ _ h => crcShift_injective (ih h)

theorem crcUpdate_inj_left {a b v : Byte} : crcUpdate a v = crcUpdate b v ↔ a = b :=
  (crcShifts_injective 8).eq_iff.trans (BitVec.xor_left_inj v)

theorem crcUpdate_inj_right {a v w : Byte} : crcUpdate a v = crcUpdate a w ↔ v = w :=
  (crcShifts_injective 8).eq_iff.trans (BitVec.xor_right_inj a)

theorem foldl_crcUpdate_inj {a b : Byte} (d : List Byte) :
    d.foldl crcUpdate a = d.foldl crcUpdate b ↔ a = b := by
  induction d generalizing a b with
  | nil => rfl
  | cons v d ih => exact ih.trans crcUpdate_inj_left

/-- Two sequences that differ in one byte at most have one CRC only if that byte is the same. -/
theorem foldl_crcUpdate_set {d : List Byte} {k : Nat} (hk : k < d.length) (a x : Byte) :
    (d.set k x).foldl crcUpdate a = d.foldl crcUpdate a ↔ x = d.getD k 0 := by
  induction d generalizing k a with
  | nil => exact absurd hk (Nat.not_lt_zero k)
  | cons v d ih =>
    cases k with
    | zero => exact (foldl_crcUpdate_inj d).trans crcUpdate_inj_right
    | succ k => exact ih (Nat.lt_of_succ_lt_succ hk) (crcUpdate a v)

theorem one_shiftLeft_ne_zero : ∀ j, j < 8 → 1#8 <<< j ≠ 0#8 := by decide

/-- Settles O37: the shifts lose nothing, so the sequence with the flipped byte does not have the CRC 0 as well. -/
theorem crcSeesEverySingleBitFlip : Obligations.CrcSeesEverySingleBitFlip := by
  intro d k j hd hk hj hflip
  have hset := (foldl_crcUpdate_set hk config.crcInit _).mp (hflip.trans hd.symm)
  exact one_shiftLeft_ne_zero j hj ((BitVec.xor_right_inj _).mp (hset.trans BitVec.xor_zero.symm))

/-! ### An exchange with an addressed device (R240) -/

/-- The state after `Address(bcast)` with presence and the bytes `vs` sent after it. -/
def exchanged (bcast : Bool) (vs : List Byte) (s : State) : State :=
  setPresence true (issued (.reset true :: txSlots (addressBytes bcast s.rom ++ vs)) 1
    (960 + addressLength bcast + 512 * vs.length) (prologue s))

theorem issued_setPresence (b : Bool) (xs : List Slot) (n len : Nat) (s : State) :
    issued xs n len (setPresence b s) = setPresence b (issued xs n len s) := rfl

theorem writeByteSeq_addressed (bcast : Bool) (v : Byte) (s : State) :
    writeByteSeq v (addressed bcast s) = exchanged bcast [v] s := by
  rw [writeByteSeq_eq, addressed, issued_setPresence, issued_issued, List.cons_append, ← txSlots_append]
  rfl

theorem writeByteList_exchanged (bcast : Bool) (vs : List Byte) {ws : List Byte} (hw : ws ≠ []) (s : State) :
    writeByteList ws (exchanged bcast vs s) = exchanged bcast (vs ++ ws) s := by
  rw [writeByteList_eq ws _ hw, exchanged, issued_setPresence, issued_issued, List.cons_append,
    ← txSlots_append, List.append_assoc, Nat.add_assoc, ← Nat.mul_add, ← List.length_append]
  rfl

section
variable (bcast : Bool) (vs : List Byte) (s : State)

theorem exchanged_ran {len : Nat} (hlen : 960 + addressLength bcast + 512 * vs.length = len) :
    Ran s (exchanged bcast vs s) (.reset true :: txSlots (addressBytes bcast s.rom ++ vs)) 1 len :=
  hlen ▸ ran_issued_prologue s _ _ _

@[simp] theorem exchanged_sampleAt (k : Nat) : (exchanged bcast vs s).sampleAt k = s.sampleAt (1 + k) :=
  sampleAt_issued (.reset true :: txSlots (addressBytes bcast s.rom ++ vs)) 1 0 k (prologue s)

theorem exchanged_rxSlots (k n : Nat) : rxSlots (exchanged bcast vs s) k n = rxSlots s (1 + k) n :=
  rxSlots_issued (.reset true :: txSlots (addressBytes bcast s.rom ++ vs)) 1 0 k n (prologue s)

theorem assembledFrom_exchanged (k : Nat) (v : Byte) :
    AssembledFrom (exchanged bcast vs s) k v ↔ AssembledFrom s (1 + k) v :=
  assembledFrom_issued (.reset true :: txSlots (addressBytes bcast s.rom ++ vs)) 1 0 k (prologue s) v

/-- R263: after an exchange SPUL is 0, so the strong pull-up is asserted exactly as CFG.SPU_EN says. -/
theorem assertPullUp_exchanged :
    assertPullUp (exchanged bcast vs s) = setSpul s.spuEn (exchanged bcast vs s) := by
  have he : (exchanged bcast vs s).spuEn = s.spuEn := rfl
  rw [assertPullUp, he]
  cases s.spuEn <;> rfl

end

/-- An exchange that ends OK with the strong pull-up as CFG.SPU_EN says (R241, R245, R259). -/
def pulledUp (bcast : Bool) (vs : List Byte) (s : State) : State :=
  finish (setSpul s.spuEn (exchanged bcast vs s))

theorem pulledUp_ran (bcast : Bool) (vs : List Byte) (s : State) {len : Nat}
    (hlen : 960 + addressLength bcast + 512 * vs.length = len) :
    Ran s (pulledUp bcast vs s) (.reset true :: txSlots (addressBytes bcast s.rom ++ vs)) 1 len :=
  exchanged_ran bcast vs s hlen

/-- A command that wrote only the fields `fs`, to reach u, and then finds no presence. -/
theorem raise_unanswered_endedAbsent_of_write {fs : List Field} {s u : State} (h : sameExcept fs s u)
    (hr : Ran s (unanswered u) [.reset false] 1 960) :
    EndedAbsent fs s (raise .busAbsent 0 (unanswered u)) :=
  ⟨raise_ended _ _ _, hr, rfl, rfl, (h.mono fun _ hf => by simp [hf]).trans (raise_unanswered_frame fs u)⟩

/-! ### CONVERT (R241) -/

section
variable {s : State}

theorem exec_convert_present (hp : s.sampleAt 0 = false) (b : Bool) :
    exec (.convert b) s = .next (pulledUp b [config.cmdConvertT] s) := by
  rw [exec, execConvert, address_present hp, writeByteSeq_addressed, assertPullUp_exchanged, pulledUp]

theorem exec_convert_absent (hp : s.sampleAt 0 = true) (b : Bool) :
    exec (.convert b) s = .next (raise .busAbsent 0 (unanswered s)) := by
  rw [exec, execConvert, address_absent hp]

/-! ### WRITE_SPAD and SET_RES (R245, R259) -/

theorem bufBytes_two_three (b : Buf) : bufBytes b 2 3 = [byteAt b 2, byteAt b 3, byteAt b 4] := rfl

theorem writeScratchpad_present (hp : s.sampleAt 0 = false) :
    writeScratchpad s =
      pulledUp false [config.cmdWriteScratch, byteAt s.buf 2, byteAt s.buf 3, byteAt s.buf 4] s := by
  have hb : (addressed false s).buf = s.buf := rfl
  rw [writeScratchpad, address_present hp, writeByteSeq_addressed, hb, bufBytes_two_three,
    writeByteList_exchanged _ _ (List.cons_ne_nil _ _), assertPullUp_exchanged, List.singleton_append, pulledUp]

theorem writeScratchpad_absent (hp : s.sampleAt 0 = true) :
    writeScratchpad s = raise .busAbsent 0 (unanswered s) :=
  address_absent hp _ _

theorem exec_writeSpad (s : State) : exec .writeSpad s = .next (writeScratchpad s) := rfl

theorem exec_setRes {b : Byte} (h9 : 9 ≤ b.toNat) (h12 : b.toNat ≤ 12) (s : State) :
    exec (.setRes b) s = .next (writeScratchpad (setBufByte 4 (configByte b) s)) :=
  congrArg _ (if_neg (by omega))

theorem exec_setRes_present {b : Byte} (h9 : 9 ≤ b.toNat) (h12 : b.toNat ≤ 12) (hp : s.sampleAt 0 = false) :
    exec (.setRes b) s = .next (pulledUp false
      [config.cmdWriteScratch, byteAt s.buf 2, byteAt s.buf 3, configByte b]
      (setBufByte 4 (configByte b) s)) := by
  have hp' : (setBufByte 4 (configByte b) s).sampleAt 0 = false := hp
  rw [exec_setRes h9 h12, writeScratchpad_present hp']
  simp

theorem exec_setRes_absent {b : Byte} (h9 : 9 ≤ b.toNat) (h12 : b.toNat ≤ 12) (hp : s.sampleAt 0 = true) :
    exec (.setRes b) s = .next (raise .busAbsent 0 (unanswered (setBufByte 4 (configByte b) s))) := by
  have hp' : (setBufByte 4 (configByte b) s).sampleAt 0 = true := hp
  rw [exec_setRes h9 h12, writeScratchpad_absent hp']

theorem exec_setRes_badResolution {b : Byte} (h : b.toNat < 9 ∨ 12 < b.toNat) (s : State) :
    exec (.setRes b) s = .next (raise .invalidArgument 4 s) := congrArg _ (if_pos h)

theorem writeScratchpad_buf (s : State) : (writeScratchpad s).buf = s.buf := by
  cases hp : s.sampleAt 0 with
  | true => rw [writeScratchpad_absent hp]; rfl
  | false => rw [writeScratchpad_present hp]; rfl

/-! ### READ_SPAD (R243) -/

theorem checkScratchpad_eq (s : State) :
    checkScratchpad s =
      endCommand (if crc8 (bufBytes s.buf 0 9) = 0 then .ok else .checksumFault) 0
        (setCrc (crc8 (bufBytes s.buf 0 9)) s) := by
  unfold checkScratchpad
  dsimp only
  split <;> rfl

/-- The state of READ_SPAD after its slots, with `b` in BUF. -/
def spadRead (b : Buf) (s : State) : State :=
  withBuf b (issued (rxSlots s 1 72) 72 3456
    (exchanged false [config.cmdReadScratch] (setTvalid false s)))

theorem spadRead_ran (b : Buf) (s : State) :
    Ran s (spadRead b s) (.reset true :: txSlots (addressBytes false s.rom ++ [config.cmdReadScratch]) ++
      rxSlots s 1 72) 73 9536 :=
  Ran.issued (exchanged_ran false [config.cmdReadScratch] s (len := 6080) rfl) _ _ _

theorem exec_readSpad_present (hp : s.sampleAt 0 = false) : ∃ b : Buf,
    (∀ k, k < 9 → AssembledFrom s (1 + 8 * k) (byteAt b k)) ∧
    exec .readSpad s = .next (checkScratchpad (spadRead b s)) := by
  obtain ⟨b, hb, hread, -⟩ := readBufFrom_eq 0 8
    (exchanged false [config.cmdReadScratch] (setTvalid false s)) (by omega)
  refine ⟨b, fun k hk => ?_, ?_⟩
  · have hb := (assembledFrom_exchanged _ _ _ _ _).mp (hread k hk)
    rwa [Nat.zero_add] at hb
  · have hp' : (setTvalid false s).sampleAt 0 = false := hp
    rw [exec, execReadSpad, address_present hp', writeByteSeq_addressed, hb, exchanged_rxSlots]
    rfl

theorem exec_readSpad_absent (hp : s.sampleAt 0 = true) :
    exec .readSpad s = .next (raise .busAbsent 0 (unanswered (setTvalid false s))) :=
  congrArg _ (address_absent (s := setTvalid false s) hp _ _)

/-! ### POWERMODE (R262) -/

theorem exec_powerMode_present (hp : s.sampleAt 0 = false) (b : Bool) :
    exec (.powerMode b) s = .next (finish (setPmode (s.sampleAt 1)
      (issued [.read (s.sampleAt 1)] 1 48 (exchanged b [config.cmdReadPower] s)))) := by
  rw [exec, execPowerMode, address_present hp]
  simp only [writeByteSeq_addressed, readSlot_eq, exchanged_sampleAt, readLength_eq]

theorem exec_powerMode_absent (hp : s.sampleAt 0 = true) (b : Bool) :
    exec (.powerMode b) s = .next (raise .busAbsent 0 (unanswered s)) :=
  congrArg _ (address_absent hp _ _)

end

/-- Settles O50: with presence the addressing and the convert byte, without presence the reset slot alone. -/
theorem convertStartsAConversion : Obligations.ConvertStartsAConversion := by
  refine ⟨formatF_of_row rfl, fun b s hp => ?_, fun b s hp =>
    ⟨_, exec_convert_absent hp b, raise_unanswered_endedAbsent [] s⟩⟩
  have hx := exec_convert_present hp b
  exact ⟨_, hx, finish_ended _, pulledUp_ran b _ s (by cases b <;> rfl), rfl, rfl, exec_frame hx⟩

/-- Settles O51: nine bytes after the addressing, the end their CRC gives; without presence the reset slot alone. -/
theorem readScratchpadChecksNineBytes : Obligations.ReadScratchpadChecksNineBytes := by
  refine ⟨formatN_of_row rfl, fun s hp => ?_, fun s hp => ⟨_, exec_readSpad_absent hp,
    raise_unanswered_endedAbsent_of_write (setTvalid_frame false s) (ran_issued_prologue s _ _ _), rfl⟩⟩
  obtain ⟨b, hread, hx⟩ := exec_readSpad_present hp
  have hframe := exec_frame hx
  rw [checkScratchpad_eq] at hx hframe
  exact ⟨_, hx, raise_ended _ _ _, spadRead_ran b s, hread, congrArg crc8 (bufBytes_from_zero b 9), rfl, rfl, rfl,
    hframe⟩

/-- Settles O52: with presence the addressing, the command byte and three bytes of BUF, without presence the reset slot
alone. -/
theorem writeScratchpadSendsThreeBytes : Obligations.WriteScratchpadSendsThreeBytes := by
  refine ⟨formatN_of_row rfl, fun s hp => ?_, fun s hp => ⟨_, (exec_writeSpad s).trans
    (congrArg _ (writeScratchpad_absent hp)), raise_unanswered_endedAbsent [] s⟩⟩
  have hx := (exec_writeSpad s).trans (congrArg _ (writeScratchpad_present hp))
  exact ⟨_, hx, finish_ended _, pulledUp_ran false _ s (by simp [addressLength]), rfl, rfl, exec_frame hx⟩

/-- The configuration bytes of R110. -/
theorem configByte_of_resolution {b c : Byte}
    (h : b.toNat = 9 ∧ c = 0x1F ∨ b.toNat = 10 ∧ c = 0x3F ∨ b.toNat = 11 ∧ c = 0x5F ∨
      b.toNat = 12 ∧ c = 0x7F) : 9 ≤ b.toNat ∧ b.toNat ≤ 12 ∧ configByte b = c := by
  refine ⟨by omega, by omega, ?_⟩
  rcases h with ⟨hb, rfl⟩ | ⟨hb, rfl⟩ | ⟨hb, rfl⟩ | ⟨hb, rfl⟩
  · exact congrArg configByte (BitVec.eq_of_toNat_eq hb : b = 9)
  · exact congrArg configByte (BitVec.eq_of_toNat_eq hb : b = 10)
  · exact congrArg configByte (BitVec.eq_of_toNat_eq hb : b = 11)
  · exact congrArg configByte (BitVec.eq_of_toNat_eq hb : b = 12)

/-- Settles O53: SET_RES is the configuration byte in BUF[4] and then the exchange of WRITE_SPAD. -/
theorem setResolutionWritesTheConfiguration : Obligations.SetResolutionWritesTheConfiguration := by
  refine ⟨formatB_of_row rfl, fun b c s hc => ?_, fun b s h =>
    ⟨_, exec_setRes_badResolution h s, raise_ended _ _ _, endCommand_frame _ _ s⟩⟩
  obtain ⟨h9, h12, rfl⟩ := configByte_of_resolution hc
  have h4 : byteAt (setByte s.buf 4 (configByte b)) 4 = configByte b := by simp
  have hne (k : Nat) (hk : k ≠ 4) : byteAt (setByte s.buf 4 (configByte b)) k = byteAt s.buf k := by
    simp [hk]
  refine ⟨fun hp => ?_, fun hp => ?_⟩
  · have hx := exec_setRes_present h9 h12 hp
    exact ⟨_, hx, finish_ended _, pulledUp_ran false _ (setBufByte 4 _ s) (by simp [addressLength]), h4, hne, rfl,
      rfl, exec_frame hx⟩
  · exact ⟨_, exec_setRes_absent h9 h12 hp, raise_unanswered_endedAbsent_of_write (setBufByte_frame 4 _ s)
      (ran_issued_prologue s _ _ _), h4, hne⟩

/-- Settles O54: with presence the addressing, the read-power byte and one read slot, without presence the reset slot
alone. -/
theorem powerModeReadsOneBit : Obligations.PowerModeReadsOneBit := by
  refine ⟨formatF_of_row rfl, fun b s hp => ?_, fun b s hp =>
    ⟨_, exec_powerMode_absent hp b, raise_unanswered_endedAbsent [] s⟩⟩
  have hx := exec_powerMode_present hp b
  have hlen : 960 + addressLength b + 512 * 1 + 48 = if b then 2032 else 6128 := by cases b <;> rfl
  have hr := (exchanged_ran b [config.cmdReadPower] s rfl).issued [.read (s.sampleAt 1)] 1 48
  exact ⟨_, hx, finish_ended _, hlen ▸ hr, rfl, rfl, rfl, exec_frame hx⟩

/-! ### The reading of DECODE (R251 to R257) -/

theorem family_extended_iff (b : Byte) : family b = .extended12 ↔ b = 0x22 ∨ b = 0x28 := by
  unfold family
  split
  · simp_all [config]
  · split <;> simp_all [config]

theorem exec_decodeTemp_extended {s : State} (h : byteAt s.rom 0 = 0x22 ∨ byteAt s.rom 0 = 0x28) :
    exec .decodeTemp s = .next (finish
      (setReading (decodeExtended (byteAt s.buf 0) (byteAt s.buf 1)) (setTvalid false s))) := by
  simp only [exec, execDecodeTemp, (family_extended_iff _).mpr h]

theorem exec_decodeTemp_legacy {s : State} (h : byteAt s.rom 0 = 0x10) (h7 : byteAt s.buf 7 ≠ 0) :
    exec .decodeTemp s = .next (finish (setReading
      (decodeLegacy (byteAt s.buf 0) (byteAt s.buf 1) (byteAt s.buf 6) (byteAt s.buf 7))
      (setTvalid false s))) := by
  simp only [exec, execDecodeTemp, (family_legacy_iff _).mpr h, if_neg h7]

theorem exec_decodeTemp_zeroCount {s : State} (h : byteAt s.rom 0 = 0x10) (h7 : byteAt s.buf 7 = 0) :
    exec .decodeTemp s = .next (raise .invalidArgument 6 (setTvalid false s)) := by
  simp only [exec, execDecodeTemp, (family_legacy_iff _).mpr h, if_pos h7]

theorem exec_decodeTemp_unsupported {s : State} (h1 : byteAt s.rom 0 ≠ 0x10) (h2 : byteAt s.rom 0 ≠ 0x22)
    (h3 : byteAt s.rom 0 ≠ 0x28) :
    exec .decodeTemp s = .next (raise .unsupportedFamily 0 (setTvalid false s)) := by
  have hf : family (byteAt s.rom 0) = .unsupported := by
    cases hf : family (byteAt s.rom 0) with
    | legacy9 => exact absurd ((family_legacy_iff _).mp hf) h1
    | extended12 => exact absurd ((family_extended_iff _).mp hf) (not_or.mpr ⟨h2, h3⟩)
    | unsupported => rfl
  simp only [exec, execDecodeTemp, hf]

theorem raise_setTvalid_frame (c : Cause) (n : Pos) (s : State) :
    sameExcept (.tvalid :: endFields) s (raise c n (setTvalid false s)) :=
  ((setTvalid_frame false s).mono (by simp)).trans
    ((endCommand_frame c n _).mono (List.subset_cons_self _ _))

theorem finish_setReading_frame (r : Int × Nat) (s : State) :
    sameExcept ([.tnum, .tden, .tc100, .tvalid] ++ endFields) s
      (finish (setReading r (setTvalid false s))) :=
  (((setTvalid_frame false s).mono (by decide)).trans ((setReading_frame r _).mono (by decide))).trans
    ((endCommand_frame .ok 0 _).mono (List.subset_append_right _ _))

theorem hundredths_eq_div (n : Int) (d : Nat) : hundredths n d = 100 * n / (d : Int) :=
  Int.fdiv_eq_ediv_of_nonneg _ (Int.natCast_nonneg d)

/-- R255: `hundredths` is the floor. -/
theorem hundredths_floor (n : Int) {d : Nat} (hd : 0 < d) :
    hundredths n d * d ≤ 100 * n ∧ 100 * n < (hundredths n d + 1) * d := by
  have hd' : (0 : Int) < d := Int.natCast_pos.mpr hd
  rw [hundredths_eq_div]
  exact ⟨Int.ediv_mul_le _ hd'.ne', Int.lt_ediv_add_one_mul_self _ hd'⟩

/-- R253: the sixteen bits as a number, and its sign. -/
theorem decodeExtended_fst (lsb msb : Byte) : (decodeExtended lsb msb).1 =
    if (32768 : Int) ≤ 256 * msb.toNat + lsb.toNat then 256 * (msb.toNat : Int) + lsb.toNat - 65536
    else 256 * msb.toNat + lsb.toNat := by
  have hl := lsb.isLt
  have hm := msb.isLt
  have hn : (msb ++ lsb).toNat = 256 * msb.toNat + lsb.toNat := by
    rw [BitVec.toNat_append, ← Nat.shiftLeft_add_eq_or_of_lt hl, Nat.shiftLeft_eq, Nat.mul_comm]
  simp only [decodeExtended, BitVec.toInt_eq_toNat_cond, hn]
  split <;> split <;> omega

/-- Settles O55: the registers hold the computed reading exactly, which is the sixteen bits over 16. -/
theorem decodeOfAnExtendedScratchpad : Obligations.DecodeOfAnExtendedScratchpad := by
  refine ⟨formatN_of_row rfl, fun s h => ?_⟩
  obtain ⟨hn, hd, hc⟩ := setReading_exact (decodeExtended_fits (byteAt s.buf 0) (byteAt s.buf 1))
    (setTvalid false s)
  obtain ⟨hle, hlt⟩ := hundredths_floor (decodeExtended (byteAt s.buf 0) (byteAt s.buf 1)).1 (d := 16) (by decide)
  refine ⟨_, exec_decodeTemp_extended h, finish_ended _, hn.trans (decodeExtended_fst _ _), hd, ?_⟩
  have hd16 : (decodeExtended (byteAt s.buf 0) (byteAt s.buf 1)).2 = 16 := rfl
  simp only [finish_tc100, finish_tnum, hc, hn, hd16]
  exact ⟨hle, hlt, by omega, by omega, rfl, finish_setReading_frame _ s⟩

/-! ### The Legacy9Bit reading (R254) -/

theorem toNat_half_or_sign : ∀ v : Byte, ((v >>> 1) ||| 0x80).toNat = v.toNat / 2 + 128 := by decide

theorem legacyInteger_eq (lsb msb : Byte) : legacyInteger lsb msb =
    if msb ≠ 0 then (lsb.toNat : Int) / 2 + 128 - 256 else (lsb.toNat : Int) / 2 := by
  have hs : (lsb >>> 1).toNat = lsb.toNat / 2 := by
    rw [BitVec.toNat_ushiftRight, Nat.shiftRight_eq_div_pow]
  simp only [legacyInteger, toNat_half_or_sign, hs]
  split <;> omega

/-- The documented formula: `(4·ip − 1)·c + 4·(c − r)` over `4·c` is `ip − 1/4 + (c − r)/c`. -/
theorem legacy_quotient (ip r c : Rat) (hc : c ≠ 0) :
    ((4 * ip - 1) * c + 4 * (c - r)) / (4 * c) = ip - 1 / 4 + (c - r) / c := by
  field_simp

/-- Its floor in hundredths: the part of `ip` is a whole number of them. -/
theorem hundredths_decodeLegacy (lsb msb cr : Byte) {cpd : Byte} (h : cpd ≠ 0) :
    hundredths (decodeLegacy lsb msb cr cpd).1 (decodeLegacy lsb msb cr cpd).2 =
      100 * legacyInteger lsb msb - 25 + Int.fdiv (100 * ((cpd.toNat : Int) - cr.toNat)) cpd.toNat := by
  have hpos : (0 : Int) < 4 * (cpd.toNat : Int) := by
    have hc : cpd.toNat ≠ 0 := fun e => h (BitVec.eq_of_toNat_eq e)
    omega
  have e : 100 * (decodeLegacy lsb msb cr cpd).1 =
      4 * (100 * ((cpd.toNat : Int) - cr.toNat)) + (100 * legacyInteger lsb msb - 25) * (4 * cpd.toNat) := by
    simp only [decodeLegacy]
    ring
  have hd : ((decodeLegacy lsb msb cr cpd).2 : Int) = 4 * cpd.toNat := Int.natCast_mul 4 _
  rw [hundredths_eq_div, e, hd, Int.add_mul_ediv_right _ _ hpos.ne', Int.mul_ediv_mul_of_pos _ _ (by decide),
    Int.fdiv_eq_ediv_of_nonneg _ (Int.natCast_nonneg _), Int.add_comm]

/-- Settles O56: the registers hold the computed reading exactly, whose quotient is the documented formula. -/
theorem decodeOfALegacyScratchpad : Obligations.DecodeOfALegacyScratchpad := by
  intro s h h7
  obtain ⟨hn, hd, hc⟩ := setReading_exact
    (decodeLegacy_fits (byteAt s.buf 0) (byteAt s.buf 1) (byteAt s.buf 6) _ h7) (setTvalid false s)
  have hcent := hundredths_decodeLegacy (byteAt s.buf 0) (byteAt s.buf 1) (byteAt s.buf 6) h7
  have hpos : 0 < (byteAt s.buf 7).toNat := Nat.pos_of_ne_zero fun e => h7 (BitVec.eq_of_toNat_eq e)
  obtain ⟨hle, hlt⟩ := hundredths_floor
    (decodeLegacy (byteAt s.buf 0) (byteAt s.buf 1) (byteAt s.buf 6) (byteAt s.buf 7)).1
    (d := 4 * (byteAt s.buf 7).toNat) (by omega)
  refine ⟨_, exec_decodeTemp_legacy h h7, finish_ended _, ?_, rfl, finish_setReading_frame _ s⟩
  simp only [finish_tc100, finish_tnum, finish_tden, hn, hd, hc, ← legacyInteger_eq]
  simp only [decodeLegacy, true_and] at hle hlt hcent ⊢
  refine ⟨Int.natCast_mul 4 _, ?_, ?_, ?_, hcent⟩
  · have hq := legacy_quotient (legacyInteger (byteAt s.buf 0) (byteAt s.buf 1)) (byteAt s.buf 6).toNat
      (byteAt s.buf 7).toNat (Nat.cast_ne_zero.mpr hpos.ne')
    push_cast
    exact hq
  · push_cast at hle
    exact hle
  · push_cast at hlt
    exact hlt

/-- Settles O57: the two faults of DECODE, raised after TVALID is cleared. -/
theorem decodeWithoutAReading : Obligations.DecodeWithoutAReading :=
  ⟨fun s h1 h2 h3 => ⟨_, exec_decodeTemp_unsupported h1 h2 h3, raise_ended _ _ _, rfl,
      raise_setTvalid_frame _ _ s⟩,
    fun s h h7 => ⟨_, exec_decodeTemp_zeroCount h h7, raise_ended _ _ _, rfl, raise_setTvalid_frame _ _ s⟩⟩

/-! ### The resolution (R258 to R261) -/

theorem toNat_resolutionOf (b : Byte) : (resolutionOf b).toNat = b.toNat / 32 % 4 + 9 := by
  have hb : (b.extractLsb' 5 2).toNat = b.toNat / 32 % 4 := by
    rw [BitVec.extractLsb'_toNat, Nat.shiftRight_eq_div_pow]
  have h9 : (9 : BitVec 4).toNat = 9 := rfl
  simp only [resolutionOf, BitVec.toNat_add, BitVec.truncate_eq_setWidth, BitVec.toNat_setWidth, hb, h9]
  omega

theorem resolutionOf_configByte : ∀ b : Byte, 9 ≤ b.toNat → b.toNat ≤ 12 →
    (resolutionOf (configByte b)).toNat = b.toNat := by decide

theorem exec_getRes (s : State) :
    exec .getRes s = .next (finish { s with res := resolutionOf (byteAt s.buf 4) }) := rfl

/-- Settles O59: one register written, and the end. -/
theorem getResolutionReadsBits6And5 : Obligations.GetResolutionReadsBits6And5 :=
  ⟨formatN_of_row rfl, fun s => ⟨_, exec_getRes s, finish_ended _, toNat_resolutionOf _,
    ((getRes_frame s _).mono (by simp)).trans ((endCommand_frame .ok 0 _).mono (List.subset_cons_self _ _))⟩⟩

/-- BUF[4] after SET_RES, with and without presence (R259). -/
theorem byteAt_four_of_setRes {b : Byte} {s t : State} (h9 : 9 ≤ b.toNat) (h12 : b.toNat ≤ 12)
    (hx : exec (.setRes b) s = .next t) : byteAt t.buf 4 = configByte b := by
  rw [exec_setRes h9 h12] at hx
  cases hx
  rw [writeScratchpad_buf, setBufByte_buf, byteAt_setByte _ _ _ _ (by decide), if_pos rfl]

/-- Settles O60: SET_RES leaves the configuration byte in BUF[4], and GET_RES reads b off that byte. -/
theorem resolutionRoundTrip : Obligations.ResolutionRoundTrip := by
  intro b s t u v h9 h12 ht _ hv
  refine ⟨_, exec_getRes v, ?_⟩
  rw [finish_res, hv, byteAt_four_of_setRes h9 h12 ht]
  exact resolutionOf_configByte b h9 h12

/-! ### SPUL after every command (R141, R263, R264) -/

theorem searchFrom_spul (n : Nat) (s : State) : (searchFrom n s).spul = s.spul := by
  induction n generalizing s with
  | zero => rfl
  | succ n ih =>
    rw [searchFrom_succ]
    split
    · rfl
    · rw [ih]
      rfl

theorem exec_searchNext_spul {s t : State} (hl : s.ldisc ≠ 0) (hx : exec .searchNext s = .next t) :
    t.spul = false := by
  have hs := execSearchNext_eq s
  rw [if_neg hl] at hs
  cases hx.symm.trans hs
  split
  · exact searchFrom_spul 64 _
  · rfl

/-- A command that issues no slot has no SPUL among its columns (R53). -/
theorem spul_notMem_mayWrite {i : Instr} (h : busActive i = false) : .spul ∉ mayWrite i := by
  have hw : .spul ∉ writesOf i := by cases i <;> simp [writesOf]
  simp [mayWrite, h, hw, endFields]

/-- What `Address(bcast)` and a rest that keeps SPUL leave in it: the 0 of the prologue. -/
theorem address_spul {rest : State → State} (h : ∀ u, (rest u).spul = u.spul) (bcast : Bool) (s : State) :
    (address bcast rest s).spul = false := by
  cases hp : s.sampleAt 0 with
  | false =>
    rw [address_present hp, h]
    rfl
  | true =>
    rw [address_absent hp]
    rfl

/-- The prologue clears SPUL, and a command that does not assert the pull-up leaves it at that. -/
theorem exec_spul_of_not_asserts {i : Instr} {s t : State} (hi : i.wf = true) (hb : busActive i = true)
    (ha : assertsPullUp i = false) (hl : i = .searchNext → s.ldisc ≠ 0) (hx : exec i s = .next t) :
    t.spul = false := by
  cases i with
  | nop | crcClr | crcUpd v | crcBuf n | crcRom b | searchInit | romTake | decodeTemp | getRes =>
    simp [busActive, prims] at hb
  | convert b | writeSpad | setRes b => simp [assertsPullUp] at ha
  | reset =>
    cases hx.symm.trans (exec_reset s)
    rfl
  | readBit =>
    cases hx.symm.trans (exec_readBit s)
    rfl
  | writeBit b =>
    cases hx.symm.trans (exec_writeBit b s)
    rfl
  | readByte =>
    obtain ⟨v, -, h⟩ := exec_readByte s
    cases hx.symm.trans h
    rfl
  | writeByte v =>
    cases hx.symm.trans (exec_writeByte v s)
    rfl
  | readBytes n =>
    obtain ⟨h1, h9⟩ : 1 ≤ n.toNat ∧ n.toNat ≤ 9 := by simpa [Instr.wf, countOk] using hi
    obtain ⟨b, -, -, h⟩ := exec_readBytes h1 h9 s
    cases hx.symm.trans h
    rfl
  | writeBytes n =>
    obtain ⟨h1, h9⟩ : 1 ≤ n.toNat ∧ n.toNat ≤ 9 := by simpa [Instr.wf, countOk] using hi
    cases hx.symm.trans (exec_writeBytes h1 h9 s)
    rfl
  | searchNext => exact exec_searchNext_spul (hl rfl) hx
  | select =>
    cases hx
    exact address_spul finish_spul _ _
  | skip =>
    cases hx
    exact address_spul finish_spul _ _
  | readSpad =>
    cases hx
    refine address_spul (fun u => ?_) _ _
    obtain ⟨b, hb, -⟩ := readBufFrom_eq 0 8 (writeByteSeq config.cmdReadScratch u) (by omega)
    rw [checkScratchpad_eq, hb, writeByteSeq_eq]
    rfl
  | powerMode b =>
    cases hx
    refine address_spul (fun u => ?_) _ _
    rw [writeByteSeq_eq, readSlot_eq]
    rfl

theorem writeScratchpad_spul (s : State) :
    (writeScratchpad s).spul = (decide ((writeScratchpad s).cause = .ok) && s.spuEn) := by
  cases hp : s.sampleAt 0 with
  | false =>
    rw [writeScratchpad_present hp]
    rfl
  | true =>
    rw [writeScratchpad_absent hp]
    rfl

/-- R263: a command that asserts the pull-up leaves SPUL as CFG.SPU_EN says if it ends OK, and else 0. -/
theorem exec_spul_of_asserts {i : Instr} {s t : State} (hi : i.wf = true) (ha : assertsPullUp i = true)
    (hx : exec i s = .next t) : t.spul = (decide (t.cause = .ok) && s.spuEn) := by
  cases i with
  | convert b =>
    cases hp : s.sampleAt 0 with
    | false =>
      cases hx.symm.trans (exec_convert_present hp b)
      rfl
    | true =>
      cases hx.symm.trans (exec_convert_absent hp b)
      rfl
  | writeSpad =>
    cases hx.symm.trans (exec_writeSpad s)
    exact writeScratchpad_spul s
  | setRes b =>
    obtain ⟨h9, h12⟩ : 9 ≤ b.toNat ∧ b.toNat ≤ 12 := by simpa [Instr.wf, resolutionOk] using hi
    cases hx.symm.trans (exec_setRes h9 h12 s)
    exact writeScratchpad_spul _
  | _ => simp [assertsPullUp] at ha

/-- Settles O11: a command without a slot does not write SPUL, the prologue of every other one clears it, and R263 is
its only other write. -/
theorem pullUpLatchAfterEachCommand : Obligations.PullUpLatchAfterEachCommand := by
  intro i s hi
  obtain ⟨t, hx, -⟩ := exec_ends i s
  refine ⟨t, hx, ?_⟩
  split
  next h =>
    rcases h with hb | ⟨rfl, hl⟩
    · exact (exec_frame hx .spul (spul_notMem_mayWrite hb)).symm
    · cases hx.symm.trans (exec_searchNext_refused hl)
      rfl
  next h =>
    obtain ⟨hb, hl⟩ := not_or.mp h
    cases ha : assertsPullUp i with
    | true => rw [exec_spul_of_asserts hi ha hx, Bool.true_and]
    | false => exact exec_spul_of_not_asserts hi (by simpa using hb) ha (fun e hl0 => hl ⟨e, hl0⟩) hx

end Sys2Proof.Machine
end

section
/-! PROOFS. The statements about starting and ending a command (45_system.md R280 to R283, R289): every command ends
with the line released, NOP does nothing but end, a CMD write is `exec`, and a command without slots at clk level waits
N_CYC edges and then takes effect at once. -/

namespace Sys2Proof.Machine

/-! ### Every command ends, the line released (R154, R282) -/

/-- A line that was released with `crit` = 0 is so again. -/
def KeepsRelease (s t : State) : Prop := s.levels = (true, false) → t.levels = (true, false)

/-- The reset slot of `Address(bcast)` releases the line, whatever it was before, and a rest keeps that. -/
theorem address_levels {rest : State → State} (h : ∀ u, KeepsRelease u (rest u)) (bcast : Bool) (s : State) :
    (address bcast rest s).levels = (true, false) := by
  rw [address_eq]
  split
  · exact h _ rfl
  · rfl

theorem writeScratchpad_levels (s : State) : (writeScratchpad s).levels = (true, false) := by
  cases hp : s.sampleAt 0 with
  | false =>
    rw [writeScratchpad_present hp]
    rfl
  | true =>
    rw [writeScratchpad_absent hp]
    rfl

theorem searchFrom_levels (n : Nat) (s : State) : KeepsRelease s (searchFrom n s) := by
  induction n generalizing s with
  | zero => exact id
  | succ n ih =>
    intro _
    rw [searchFrom_succ]
    split
    · rfl
    · exact ih _ rfl

/-- A non-bus command has no port of the line among its columns (R53). -/
theorem exec_levels_of_not_busActive {i : Instr} {s t : State} (h : busActive i = false)
    (hx : exec i s = .next t) : t.levels = s.levels := by
  have hw : .owOut ∉ writesOf i ∧ .crit ∉ writesOf i := by cases i <;> simp [writesOf]
  have ho : s.owOut = t.owOut := exec_frame hx .owOut (by simp [mayWrite, h, hw, endFields])
  have hc : s.crit = t.crit := exec_frame hx .crit (by simp [mayWrite, h, hw, endFields])
  exact levels_iff.mpr ⟨ho.symm, hc.symm⟩

/-- R154, R282: every slot of a command ends with the line released, and a command without one leaves it alone. -/
theorem exec_levels {i : Instr} {s t : State} (hx : exec i s = .next t) : KeepsRelease s t := by
  intro hs
  cases i with
  | nop | crcClr | crcUpd v | crcBuf n | crcRom b | searchInit | romTake | decodeTemp | getRes =>
    rwa [exec_levels_of_not_busActive rfl hx]
  | reset =>
    cases hx.symm.trans (exec_reset s)
    rfl
  | readBit =>
    cases hx.symm.trans (exec_readBit s)
    rfl
  | writeBit b =>
    cases hx.symm.trans (exec_writeBit b s)
    rfl
  | readByte =>
    obtain ⟨v, -, h⟩ := exec_readByte s
    cases hx.symm.trans h
    rfl
  | writeByte v =>
    cases hx.symm.trans (exec_writeByte v s)
    rfl
  | readBytes n =>
    by_cases hn : n.toNat = 0 ∨ 9 < n.toNat
    · cases hx.symm.trans (exec_readBytes_badCount hn s)
      exact hs
    · obtain ⟨b, -, -, h⟩ := exec_readBytes (n := n) (by omega) (by omega) s
      cases hx.symm.trans h
      rfl
  | writeBytes n =>
    by_cases hn : n.toNat = 0 ∨ 9 < n.toNat
    · cases hx.symm.trans (exec_writeBytes_badCount hn s)
      exact hs
    · cases hx.symm.trans (exec_writeBytes (n := n) (by omega) (by omega) s)
      rfl
  | searchNext =>
    cases hx.symm.trans (execSearchNext_eq s)
    split
    · exact hs
    · split
      · exact searchFrom_levels 64 _ rfl
      · rfl
  | select | skip =>
    cases hx
    exact address_levels (rest := finish) (fun _ => id) _ s
  | convert b =>
    cases hp : s.sampleAt 0 with
    | false =>
      cases hx.symm.trans (exec_convert_present hp b)
      rfl
    | true =>
      cases hx.symm.trans (exec_convert_absent hp b)
      rfl
  | readSpad =>
    cases hx
    refine address_levels (fun u _ => ?_) false _
    obtain ⟨b, hb, -⟩ := readBufFrom_eq 0 8 (writeByteSeq config.cmdReadScratch u) (by omega)
    rw [checkScratchpad_eq, hb]
    rfl
  | writeSpad =>
    cases hx
    exact writeScratchpad_levels s
  | setRes b =>
    by_cases hb : b.toNat < 9 ∨ 12 < b.toNat
    · cases hx.symm.trans (exec_setRes_badResolution hb s)
      exact hs
    · cases hx.symm.trans (exec_setRes (b := b) (by omega) (by omega) s)
      exact writeScratchpad_levels _
  | powerMode b =>
    cases hx
    refine address_levels (fun u _ => ?_) b s
    rw [readSlot_eq]
    rfl

theorem exec_ended {i : Instr} {s t : State} (hx : exec i s = .next t) : ∃ c n, Ended c n t := by
  obtain ⟨u, hu, c, n, v, rfl, -⟩ := exec_ends i s
  cases hx.symm.trans hu
  exact ⟨c, n, raise_ended c n v⟩

/-- Settles O7: the last line of every command is its end, and its slots have released the line before. -/
theorem everyCommandEndsIdle : Obligations.EveryCommandEndsIdle := by
  intro i s
  obtain ⟨t, hx, -⟩ := exec_ends i s
  exact ⟨t, hx, exec_ended hx, fun ho hc => levels_iff.mp (exec_levels hx (levels_iff.mpr ⟨ho, hc⟩))⟩

/-! ### NOP, and a CMD write (R280, R281, R289) -/

/-- Settles O13: NOP is the end of a command and nothing before it. -/
theorem nopOnlyWritesCause : Obligations.NopOnlyWritesCause :=
  ⟨formatN_of_row rfl, fun s => ⟨finish s, rfl, finish_ended s, endCommand_frame .ok 0 s⟩⟩

theorem command_ok_eq {w : Word} {i : Instr} (h : decode w = .ok i) (s : State) :
    command w s = exec i (accept w s) := by
  rw [command, h]

theorem withFetchWord_busy (s : State) (nbits w : Nat) : (s.withFetchWord nbits w).busy = false := by
  cases h : s.busy <;> simp [State.withFetchWord, h]

/-- Settles O6: the step takes the access, which is `command`; `withFetchWord` schedules it on an idle engine. -/
theorem stepRunsTheDecodedCommand : Obligations.StepRunsTheDecodedCommand := by
  have hstep (s : State) (w : Word) (i : Instr) (rest : List Input) (hin : s.inputs = .access (.write 0x00 w) :: rest)
      (hb : s.busy = false) (hd : decode w = .ok i) : step s = exec i (accept w (takeInput rest s)) := by
    rw [step_access hin, hostAccess_write_cmd (s := takeInput rest s) hb, command_ok_eq hd]
  exact ⟨hstep, fun s nbits w i hd => hstep _ _ i _ rfl (withFetchWord_busy s nbits w) hd⟩

/-! ### Commands that issue no slot (R283) -/

/-- The only bus-active command that its acceptance check can refuse is SEARCH_NEXT, after the end of a scan (R281). -/
theorem refusedAtAcceptance_iff {i : Instr} {s : State} :
    refusedAtAcceptance i s = true ↔ i = .searchNext ∧ s.ldisc = 0 := by
  simp [refusedAtAcceptance]

/-- Whatever the word, `command` ends (R282, R296). -/
theorem command_ended {w : Word} {s t : State} (hx : command w s = .next t) : ∃ c n, Ended c n t := by
  cases hd : decode w with
  | error e =>
    cases hx.symm.trans (command_error hd s)
    exact ⟨_, _, raise_ended _ _ _⟩
  | ok i => exact exec_ended ((command_ok_eq hd s).symm.trans hx)

theorem command_busy {w : Word} {s t : State} (hx : command w s = .next t) : t.busy = false := by
  obtain ⟨c, n, -, -, hb, -⟩ := command_ended hx
  exact hb

/-- The columns of R53 that a command without slots can write, CAUSE among them. -/
def atomicFields : List Field :=
  [.cause, .info, .data, .buf, .rom, .srom, .ldisc, .crc, .tnum, .tden, .tc100, .res, .found, .tvalid]

theorem writesOf_subset_atomicFields {i : Instr} (h : busActive i = false) : writesOf i ⊆ atomicFields := by
  cases i with
  | nop | crcClr | crcUpd v | crcBuf n | crcRom b | searchInit | romTake | decodeTemp | getRes =>
    simp [writesOf, atomicFields]
  | convert b | powerMode b => cases b <;> simp [busActive, prims, addressPrims] at h
  | _ => simp [busActive, prims, addressPrims] at h

theorem accept_frame (w : Word) (s : State) : sameExcept [.busy, .opc, .arg] s (accept w s) := by
  intro f hf
  cases f <;> simp [Field.same] at hf ⊢

/-- From an idle engine, a command that has ended has put the sequencer back to what it was before. -/
theorem sameExcept_of_ended {s t : State} {w : Word} {c : Cause} {n : Pos} {fs : List Field} (hb : s.busy = false)
    (hi : s.idleOk = true) (he : Ended c n t) (hf : sameExcept (endFields ++ fs) (accept w s) t) :
    sameExcept (.cause :: .info :: fs) s t := by
  intro f hm
  simp only [State.idleOk, Bool.and_eq_true, beq_iff_eq, decide_eq_true_eq, Option.isNone_iff_eq_none] at hi
  obtain ⟨⟨⟨⟨⟨⟨⟨⟨⟨s1, s2⟩, s3⟩, s4⟩, s5⟩, s6⟩, s7⟩, s8⟩, -⟩, -⟩ := hi
  obtain ⟨-, -, t0, t1, t2, t3, t4, t5, t6, t7, t8⟩ := he
  by_cases hend : f ∈ endFields
  · simp only [endFields, List.mem_cons, List.not_mem_nil, or_false] at hend
    rcases hend with rfl | rfl | rfl | rfl | rfl | rfl | rfl | rfl | rfl | rfl | rfl
    · exact hb.trans t0.symm
    · simp at hm
    · simp at hm
    · exact s1.trans t1.symm
    · exact s2.trans t2.symm
    · exact s3.trans t3.symm
    · exact s4.trans t4.symm
    · exact s5.trans t5.symm
    · exact s6.trans t6.symm
    · exact s7.trans t7.symm
    · exact s8.trans t8.symm
  · have hacc : [.busy, .opc, .arg] ⊆ endFields := by decide
    refine (accept_frame w s f fun h => hend (hacc h)).trans (hf f ?_)
    simp only [List.mem_append, List.mem_cons, not_or] at hm ⊢
    exact ⟨hend, hm.2.2⟩

/-- A word whose command issues no slot: malformed, non-bus, or a refused SEARCH_NEXT (R281, R283, R296). -/
def AtomicWord (w : Word) (s : State) : Prop :=
  ∀ i, decode w = .ok i → busActive i = false ∨ refusedAtAcceptance i s = true

theorem command_atomic_frame {w : Word} {s t : State} (hb : s.busy = false) (hi : s.idleOk = true)
    (ha : AtomicWord w s) (hx : command w s = .next t) : sameExcept atomicFields s t := by
  obtain ⟨c, n, he⟩ := command_ended hx
  cases hd : decode w with
  | error e =>
    cases hx.symm.trans (command_error hd s)
    exact (sameExcept_of_ended (fs := []) hb hi he (endCommand_frame _ _ _)).mono (by decide)
  | ok i =>
    rw [command_ok_eq hd] at hx
    rcases ha i hd with hbus | href
    · have hf : sameExcept (endFields ++ writesOf i) (accept w s) t := by
        simpa [mayWrite, hbus] using exec_frame hx
      refine (sameExcept_of_ended hb hi he hf).mono ?_
      exact List.cons_subset.mpr ⟨by decide, List.cons_subset.mpr ⟨by decide, writesOf_subset_atomicFields hbus⟩⟩
    · obtain ⟨rfl, hl⟩ := refusedAtAcceptance_iff.mp href
      cases hx.symm.trans (exec_searchNext_refused (s := accept w s) hl)
      exact (sameExcept_of_ended (fs := []) hb hi he (endCommand_frame _ _ _)).mono (by decide)

/-! ### The wait of N_CYC (R283, log 5) -/

/-- A command that issues no slot does not look at the wait, the inputs to come or `h_rdata`. -/
theorem exec_atomic_takeInput {i : Instr} {s t : State} (ha : busActive i = false ∨ refusedAtAcceptance i s = true)
    (hx : exec i s = .next t) (h : Option (Word × Nat)) (xs : List Input) :
    exec i (takeInput xs (setHold h s)) = .next (takeInput xs t) := by
  rcases ha with hbus | href
  · cases i with
    | nop | crcClr | crcUpd v | crcRom b | searchInit | romTake | getRes =>
      cases hx
      rfl
    | crcBuf n =>
      cases hx
      simp only [exec, execCrcBuf]
      split <;> rfl
    | decodeTemp =>
      by_cases hl : byteAt s.rom 0 = 0x10
      · by_cases h7 : byteAt s.buf 7 = 0
        · cases hx.symm.trans (exec_decodeTemp_zeroCount hl h7)
          exact exec_decodeTemp_zeroCount (s := takeInput xs (setHold h s)) hl h7
        · cases hx.symm.trans (exec_decodeTemp_legacy hl h7)
          exact exec_decodeTemp_legacy (s := takeInput xs (setHold h s)) hl h7
      · by_cases he : byteAt s.rom 0 = 0x22 ∨ byteAt s.rom 0 = 0x28
        · cases hx.symm.trans (exec_decodeTemp_extended he)
          exact exec_decodeTemp_extended (s := takeInput xs (setHold h s)) he
        · obtain ⟨h22, h28⟩ := not_or.mp he
          cases hx.symm.trans (exec_decodeTemp_unsupported hl h22 h28)
          exact exec_decodeTemp_unsupported (s := takeInput xs (setHold h s)) hl h22 h28
    | convert b | powerMode b => cases b <;> simp [busActive, prims, addressPrims] at hbus
    | _ => simp [busActive, prims, addressPrims] at hbus
  · obtain ⟨rfl, hl⟩ := refusedAtAcceptance_iff.mp href
    cases hx.symm.trans (exec_searchNext_refused hl)
    exact exec_searchNext_refused (s := takeInput xs (setHold h s)) hl

/-- The engine has accepted w and waits n more cycles of N_CYC. -/
def waiting (w : Word) (n : Nat) (s : State) : State := setHold (some (w, n)) (accept w s)

theorem waiting_frame (w : Word) (n : Nat) (xs : List Input) (s : State) :
    sameExcept [.busy, .opc, .arg, .hold, .inputs, .hRdata] s (takeInput xs (waiting w n s)) := by
  intro f hf
  cases f <;> simp [Field.same, waiting] at hf ⊢

section
variable {w : Word} {s t : State} (ha : AtomicWord w s) (hx : command w s = .next t)
include ha hx

/-- The command takes effect alike from every state that differs, once the word is accepted, only in the wait, the
inputs to come and `h_rdata`. -/
theorem command_of_accept {u : State} {h : Option (Word × Nat)} {xs : List Input}
    (hu : accept w u = takeInput xs (setHold h (accept w s))) : command w u = .next (takeInput xs t) := by
  cases hd : decode w with
  | error e =>
    cases hx.symm.trans (command_error hd s)
    rw [command_error hd, hu]
    rfl
  | ok i =>
    rw [command_ok_eq hd] at hx ⊢
    rw [hu]
    exact exec_atomic_takeInput (s := accept w s) (ha i hd) hx h xs

theorem command_waiting (n : Nat) (xs : List Input) :
    command w (takeInput xs (waiting w n s)) = .next (takeInput xs t) :=
  command_of_accept ha hx (h := some (w, n)) rfl

/-- An edge of the wait: one cycle less, or the command (R283). -/
theorem step_waiting (n : Nat) (u : Bool) (xs : List Input) :
    step (takeInput (.clk ⟨false, u, none⟩ :: xs) (waiting w n s)) =
      .next (takeInput xs (if n ≤ 1 then t else waiting w (n - 1) s)) := by
  rw [step_clk rfl, clkEdge_quiet]
  have he : stateEdge ⟨false, u, none⟩ (takeInput xs (waiting w n s)) =
      if n ≤ 1 then command w (takeInput xs (waiting w n s)) else .next (takeInput xs (waiting w (n - 1) s)) := rfl
  refine he.trans ?_
  split
  · exact command_waiting ha hx n xs
  · rfl

/-- The edge of the CMD write: the wait begins, or with N_CYC = 0 the command takes effect at once. -/
theorem step_startAtomic (hb : s.busy = false) (u : Bool) (xs : List Input)
    (hin : s.inputs = .clk ⟨false, u, some (.write 0x00 w)⟩ :: xs) :
    step s = .next (takeInput xs (if Config.nCyc = 0 then t else waiting w Config.nCyc s)) := by
  have hstart : startCommand w (takeInput xs s) = startAtomic w (takeInput xs s) := by
    unfold startCommand
    split
    · rfl
    · next i hd =>
      refine if_neg fun h => ?_
      rw [Bool.and_eq_true, Bool.not_eq_true'] at h
      obtain ⟨hbus, hnot⟩ := h
      rcases ha i hd with h0 | h1
      · exact Bool.noConfusion (h0.symm.trans hbus)
      · exact Bool.noConfusion (h1.symm.trans hnot)
  have hb' : (takeInput xs s).busy = false := hb
  rw [step_clk hin, clkEdge_write]
  simp only [stateEdge, hb', writeEdge, Bool.false_eq_true, if_false, if_true]
  rw [hstart, startAtomic]
  split
  · exact command_of_accept ha hx (h := s.hold) rfl
  · rfl

end

theorem run_succ {s t : State} (h : step s = .next t) (k : Nat) : core.run (k + 1) s = core.run k t := by
  have hc : core.step s = .next t := h
  simp only [Host.Core.run, hc]

/-- Edges of `clk` with neither `rst` nor a host access. -/
def QuietCycles (cs : List Cycle) : Prop := ∀ c ∈ cs, c.rst = false ∧ c.host = none

theorem QuietCycles.cons {c : Cycle} {cs : List Cycle} (h : QuietCycles (c :: cs)) :
    (∃ u, c = ⟨false, u, none⟩) ∧ QuietCycles cs := by
  obtain ⟨⟨hr, hh⟩, hcs⟩ := List.forall_mem_cons.mp h
  obtain ⟨r, u, x⟩ := c
  obtain rfl : r = false := hr
  obtain rfl : x = none := hh
  exact ⟨⟨u, rfl⟩, hcs⟩

theorem stateEdge_idle {s : State} (u : Bool) (hb : s.busy = false) : stateEdge ⟨false, u, none⟩ s = .next s := by
  simp only [stateEdge, writeEdge, hb, Bool.false_eq_true, if_false]

/-- Quiet edges leave an idle engine as it is (R52). -/
theorem run_idle {s : State} (hb : s.busy = false) {cs : List Cycle} (hcs : QuietCycles cs) (rest : List Input) :
    core.run cs.length (takeInput (cs.map Input.clk ++ rest) s) = .next (takeInput rest s) := by
  induction cs with
  | nil => rfl
  | cons c cs ih =>
    obtain ⟨⟨u, rfl⟩, hcs'⟩ := hcs.cons
    have hstep : step (takeInput (.clk ⟨false, u, none⟩ :: (cs.map Input.clk ++ rest)) s) =
        .next (takeInput (cs.map Input.clk ++ rest) s) := by
      rw [step_clk rfl, clkEdge_quiet]
      exact stateEdge_idle (s := takeInput (cs.map Input.clk ++ rest) s) u hb
    exact (run_succ hstep _).trans (ih hcs')

/-- Quiet edges during the wait: it is shorter by as many, or the command has taken effect (R283). -/
theorem run_waiting {w : Word} {s t : State} (ha : AtomicWord w s) (hx : command w s = .next t) {cs : List Cycle}
    (hcs : QuietCycles cs) (rest : List Input) {n : Nat} (hn : 1 ≤ n) :
    core.run cs.length (takeInput (cs.map Input.clk ++ rest) (waiting w n s)) =
      .next (takeInput rest (if n ≤ cs.length then t else waiting w (n - cs.length) s)) := by
  induction cs generalizing n with
  | nil =>
    rw [if_neg (by rw [List.length_nil]; omega)]
    rfl
  | cons c cs ih =>
    obtain ⟨⟨u, rfl⟩, hcs'⟩ := hcs.cons
    refine (run_succ (step_waiting ha hx n u (cs.map Input.clk ++ rest)) cs.length).trans ?_
    rw [List.length_cons]
    by_cases h1 : n ≤ 1
    · rw [if_pos h1, if_pos (by omega)]
      exact run_idle (command_busy hx) hcs' rest
    · have hsub : n - 1 - cs.length = n - (cs.length + 1) := by omega
      have hle : n - 1 ≤ cs.length ↔ n ≤ cs.length + 1 := by omega
      rw [if_neg h1, ih hcs' (by omega), hsub]
      simp only [hle]

/-- The whole run: the edge of the CMD write and the quiet edges after it. -/
theorem run_atomic {w : Word} {s t : State} (hb : s.busy = false) (ha : AtomicWord w s)
    (hx : command w s = .next t) {u : Bool} {cs : List Cycle} (hcs : QuietCycles cs) {rest : List Input}
    (hin : s.inputs = .clk ⟨false, u, some (.write 0x00 w)⟩ :: (cs.map Input.clk ++ rest)) :
    core.run (cs.length + 1) s =
      .next (takeInput rest (if Config.nCyc ≤ cs.length then t else waiting w (Config.nCyc - cs.length) s)) := by
  rw [run_succ (step_startAtomic ha hx hb u _ hin)]
  by_cases h0 : Config.nCyc = 0
  · rw [if_pos h0, if_pos (by omega)]
    exact run_idle (command_busy hx) hcs rest
  · rw [if_neg h0]
    exact run_waiting ha hx hcs rest (by omega)

/-- Settles O33: the command's columns, and the run with its wait on either side of N_CYC. -/
theorem nonBusCommandsAreAtomic : Obligations.NonBusCommandsAreAtomic := by
  intro s t w u cs rest hb hi ha hin hcs hx
  have hrun := run_atomic hb ha hx hcs hin
  refine ⟨command_atomic_frame hb hi ha hx, fun hle => ?_, fun hlt => ?_⟩
  · rwa [if_pos hle] at hrun
  · rw [if_neg (by omega)] at hrun
    exact ⟨_, hrun, rfl, waiting_frame w _ rest s⟩

end Sys2Proof.Machine
end

section
/-! PROOFS. The statements about the faults (60_exceptions.md R290 to R299): what InvalidArgument leaves as it was,
which cause each command can end with, and the end of a command without presence. -/

namespace Sys2Proof.Machine

/-! ### InvalidArgument at acceptance (R296, R281) -/

/-- On an idle engine the end of a command takes back all that acceptance wrote: CAUSE is what remains. -/
theorem raise_accept_of_idle {s : State} (hb : s.busy = false) (hi : s.idleOk = true) (c : Cause) (n : Pos)
    (w : Word) : raise c n (accept w s) = { s with cause := c, info := n } := by
  simp only [State.idleOk, Bool.and_eq_true, beq_iff_eq, decide_eq_true_eq, Option.isNone_iff_eq_none] at hi
  obtain ⟨⟨⟨⟨⟨⟨⟨⟨⟨h1, h2⟩, h3⟩, h4⟩, h5⟩, h6⟩, h7⟩, h8⟩, -⟩, -⟩ := hi
  simp only [raise, endCommand, idle, accept, hb, h1, h2, h3, h4, h5, h6, h7, h8]

/-- A CMD write of a command's own word runs it from its accepted state (R281). -/
theorem hostAccess_write_encode {s : State} (hb : s.busy = false) {i : Instr} (hi : i.wf = true) :
    hostAccess (.write 0x00 (encode i)) s = exec i (accept (encode i) s) :=
  (hostAccess_write_cmd hb _).trans (command_ok_eq (decodeAfterEncodeIsIdentity i hi) s)

/-- Settles O9: each of the three is a `raise` right after acceptance, of DECODE with TVALID cleared before. -/
theorem invalidArgumentChangesOnlyCause : Obligations.InvalidArgumentChangesOnlyCause := by
  refine ⟨fun s w e hb hi hd => ?_, fun s hb hi hl => ?_, fun s hb hi hr h7 => ?_, by decide +kernel⟩
  · rw [hostAccess_write_cmd hb, command_error hd, raise_accept_of_idle hb hi]
  · rw [hostAccess_write_encode hb rfl, exec_searchNext_refused (s := accept _ s) hl, raise_accept_of_idle hb hi]
  · rw [hostAccess_write_encode hb rfl, exec_decodeTemp_zeroCount (s := accept _ s) hr h7]
    exact congrArg _ (raise_accept_of_idle (s := setTvalid false s) hb hi _ _ _)

/-! ### The cause of each command (R299) -/

/-- Both ends of `Address(bcast)`: BusAbsent, or a cause of the rest. -/
theorem address_cause_mem {cs : List Cause} {rest : State → State} (ha : .busAbsent ∈ cs)
    (h : ∀ u, (rest u).cause ∈ cs) (bcast : Bool) (s : State) : (address bcast rest s).cause ∈ cs := by
  rw [address_eq]
  split
  · exact h _
  · exact ha

theorem writeScratchpad_cause_mem (s : State) : (writeScratchpad s).cause ∈ [Cause.ok, .busAbsent] :=
  address_cause_mem (by simp) (fun _ => by simp) _ _

/-- The loop of R207 ends at its bottom, or at a position that no device answers. -/
theorem searchFrom_cause_mem (n : Nat) (s : State) :
    (searchFrom n s).cause ∈ [Cause.ok, .busCollisionFault] := by
  induction n generalizing s with
  | zero => simp [searchFrom]
  | succ n ih =>
    rw [searchFrom_succ]
    split
    · simp
    · exact ih _

/-- A SEARCH_NEXT that is not refused ends as R207 to R209 say. -/
theorem exec_searchNext_cause_mem {s t : State} (hl : s.ldisc ≠ 0) (hx : exec .searchNext s = .next t) :
    t.cause ∈ [Cause.ok, .busAbsent, .busCollisionFault] := by
  have hs := execSearchNext_eq s
  rw [if_neg hl] at hs
  cases hx.symm.trans hs
  split
  · have hc := searchFrom_cause_mem 64 (searchEntry s)
    simp only [List.mem_cons, List.not_mem_nil, or_false] at hc ⊢
    exact hc.imp_right .inr
  · simp

/-- The operands of a well-formed command (R101). -/
theorem countOk_iff {n : Byte} : countOk n = true ↔ 1 ≤ n.toNat ∧ n.toNat ≤ 9 := by simp [countOk]

theorem resolutionOk_iff {b : Byte} : resolutionOk b = true ↔ 9 ≤ b.toNat ∧ b.toNat ≤ 12 := by
  simp [resolutionOk]

/-- R299, command by command. -/
theorem exec_cause_mem {i : Instr} {s t : State} (hi : i.wf = true) (hx : exec i s = .next t) :
    t.cause ∈ causesOf i := by
  cases i with
  | nop | readBit | writeBit b | readByte | writeByte v | crcClr | crcUpd v | crcRom b | searchInit | romTake
  | getRes =>
    cases hx
    exact List.mem_singleton.mpr rfl
  | reset =>
    cases hx.symm.trans (exec_reset s)
    cases h : s.sampleAt 0 <;> simp [causesOf]
  | readBytes n =>
    obtain ⟨h1, h9⟩ := countOk_iff.mp hi
    obtain ⟨b, -, -, h⟩ := exec_readBytes h1 h9 s
    cases hx.symm.trans h
    exact List.mem_singleton.mpr rfl
  | writeBytes n =>
    obtain ⟨h1, h9⟩ := countOk_iff.mp hi
    cases hx.symm.trans (exec_writeBytes h1 h9 s)
    exact List.mem_singleton.mpr rfl
  | crcBuf n =>
    obtain ⟨h1, h9⟩ := countOk_iff.mp hi
    cases hx.symm.trans (exec_crcBuf h1 h9 s)
    exact List.mem_singleton.mpr rfl
  | searchNext =>
    by_cases hl : s.ldisc = 0
    · cases hx.symm.trans (exec_searchNext_refused hl)
      simp [causesOf]
    · exact List.mem_append_left [.invalidArgument] (exec_searchNext_cause_mem hl hx)
  | select | skip | convert b | powerMode b =>
    cases hx
    exact address_cause_mem (by simp [causesOf]) (fun _ => by simp [causesOf]) _ _
  | readSpad =>
    cases hx
    refine address_cause_mem (by simp [causesOf]) (fun u => ?_) _ _
    rw [checkScratchpad_eq, endCommand_cause]
    split <;> simp [causesOf]
  | writeSpad =>
    cases hx
    exact writeScratchpad_cause_mem s
  | decodeTemp =>
    rcases execDecodeTemp_cases s with h | h | ⟨-, h⟩ | ⟨-, -, h⟩ <;> cases hx.symm.trans h <;> simp [causesOf]
  | setRes b =>
    obtain ⟨h9, h12⟩ := resolutionOk_iff.mp hi
    cases hx.symm.trans (exec_setRes h9 h12 s)
    exact writeScratchpad_cause_mem _

/-- Only two rows of R299 hold InvalidArgument. -/
theorem invalidArgument_mem_causesOf {i : Instr} (h : .invalidArgument ∈ causesOf i) :
    i = .searchNext ∨ i = .decodeTemp := by
  cases i with
  | searchNext => exact .inl rfl
  | decodeTemp => exact .inr rfl
  | _ => simp [causesOf] at h

theorem exec_searchNext_info {s t : State} (hx : exec .searchNext s = .next t)
    (hc : t.cause = .invalidArgument) : t.info = 5 := by
  by_cases hl : s.ldisc = 0
  · cases hx.symm.trans (exec_searchNext_refused hl)
    rfl
  · have hm := exec_searchNext_cause_mem hl hx
    simp [hc] at hm

theorem exec_decodeTemp_info {s t : State} (hx : exec .decodeTemp s = .next t)
    (hc : t.cause = .invalidArgument) : t.info = 6 := by
  rcases execDecodeTemp_cases s with h | h | ⟨-, h⟩ | ⟨-, -, h⟩ <;> cases hx.symm.trans h
  · simp at hc
  · rfl
  · simp at hc
  · simp at hc

/-- Settles O10: the INFO of every end is legal, the cause is of the command's row, and the two commands with
InvalidArgument in their row raise it in one place each. -/
theorem causeIsOneTheCommandCanRaise : Obligations.CauseIsOneTheCommandCanRaise := by
  intro i s hi
  obtain ⟨t, hx, c, n, u, rfl, hlegal, -⟩ := exec_ends i s
  have hmem := exec_cause_mem hi hx
  refine ⟨_, hx, hmem, hlegal, fun hc => ?_⟩
  rcases invalidArgument_mem_causesOf (hc ▸ hmem) with rfl | rfl
  · exact .inl ⟨rfl, exec_searchNext_info hx hc⟩
  · exact .inr ⟨rfl, exec_decodeTemp_info hx hc⟩

/-! ### No presence (R292) -/

/-- The writes that R292 names for a command without presence, besides those of its reset slot and its end. -/
def absentWrites (i : Instr) (s : State) : State :=
  match i with
  | .searchNext => setLdisc 0 (setFound false s)
  | .readSpad => setTvalid false s
  | .setRes bits => setBufByte 4 (configByte bits) s
  | _ => s

/-- Without presence RESET and every composite command do no more than these writes, the reset slot and BusAbsent. -/
theorem exec_absent {i : Instr} {s : State} (hi : i.wf = true) (hc : isComposite i = true ∨ i = .reset)
    (hl : i = .searchNext → s.ldisc ≠ 0) (hp : s.sampleAt 0 = true) :
    exec i s = .next (raise .busAbsent 0 (unanswered (absentWrites i s))) := by
  cases i with
  | reset =>
    rw [exec_reset, hp]
    rfl
  | searchNext => exact exec_searchNext_absent (hl rfl) hp
  | select | skip => exact congrArg _ (address_absent hp _ _)
  | convert b => exact exec_convert_absent hp b
  | readSpad => exact exec_readSpad_absent hp
  | writeSpad => exact congrArg _ (writeScratchpad_absent hp)
  | setRes b =>
    obtain ⟨h9, h12⟩ := resolutionOk_iff.mp hi
    exact exec_setRes_absent h9 h12 hp
  | powerMode b => exact exec_powerMode_absent hp b
  | _ => simp [isComposite] at hc

theorem absentWrites_frame (i : Instr) (s : State) :
    sameExcept [.found, .ldisc, .tvalid, .buf] s (absentWrites i s) := by
  cases i with
  | searchNext =>
    exact ((setFound_frame false s).mono (by simp)).trans ((setLdisc_frame 0 _).mono (by simp))
  | readSpad => exact (setTvalid_frame false s).mono (by simp)
  | setRes b => exact (setBufByte_frame 4 _ s).mono (by simp)
  | _ => exact sameExcept.refl _ s

/-- The reset slot of a state that differs from s in none of the fields that a run is read off (R142, R154). -/
theorem unanswered_ran {fs : List Field} {s u : State} (h : sameExcept fs s u)
    (hd : ∀ f ∈ [Field.spuEn, .trace, .ticks, .line, .draws], f ∉ fs) :
    Ran s (unanswered u) [.reset false] 1 960 := by
  have hspu : s.spuEn = u.spuEn := h .spuEn (hd _ (by simp))
  have htrace : s.trace = u.trace := h .trace (hd _ (by simp))
  have hticks : s.ticks = u.ticks := h .ticks (hd _ (by simp))
  have hline : s.line = u.line := h .line (hd _ (by simp))
  have hdraws : s.draws = u.draws := h .draws (hd _ (by simp))
  have hu : Ran u (unanswered u) [.reset false] 1 960 := ran_issued_prologue u _ _ _
  simpa only [Ran, leadTicks, hspu, htrace, hticks, hline, hdraws] using hu

/-- Settles O12: the end of `exec_absent`, and the fields its writes name. -/
theorem noPresenceEndsTheCommand : Obligations.NoPresenceEndsTheCommand := by
  intro i s hi hc hl hp
  have hf := absentWrites_frame i s
  refine ⟨_, exec_absent hi hc hl hp,
    raise_unanswered_endedAbsent_of_write hf (unanswered_ran hf (by decide)), ?_⟩
  cases i <;> exact ⟨rfl, rfl, rfl, rfl⟩

end Sys2Proof.Machine
end

section
/-! PROOFS. The statements about reset (70_reset_and_hazards.md R330 to R332): what `rst` at an edge of `clk` restores,
what of the model's own records it leaves, and the port `h_rdata` of that cycle. -/

namespace Sys2Proof.Machine

theorem resetEngine_frame (s : State) :
    sameExcept [.inputs, .line, .draws, .readDraws, .trace, .ticks] State.reset (resetEngine s) := by
  intro f hf
  cases f <;> simp [Field.same, resetEngine] at hf ⊢

theorem stateEdge_rst {c : Cycle} (hc : c.rst = true) (s : State) : stateEdge c s = .next (resetEngine s) :=
  if_pos hc

/-- An edge with `rst` = 1 is the reset of every element, and the port of the cycle (R26, R330). -/
theorem step_rst {s : State} {c : Cycle} {rest : List Input} (hc : c.rst = true) (hin : s.inputs = .clk c :: rest) :
    step s = .next (readPort c.host (takeInput rest s) (resetEngine (takeInput rest s))) :=
  (step_clk hin).trans (clkEdge_next (stateEdge_rst hc _))

/-- A cycle without a read leaves the port as it is (R26). -/
theorem readPort_of_no_read {h : Option Access} (hr : ∀ a, h ≠ some (.read a)) (s t : State) :
    readPort h s t = t := by
  match h, hr with
  | none, _ => rfl
  | some (.write _ _), _ => rfl
  | some (.read a), hr => exact absurd rfl (hr a)

/-- The word of a read: with BUSY = 0 that of the register, and STATUS at any time (R72, R76). -/
theorem showRead_word (a : Addr) (s t : State) : ∃ v, (showRead a s t).hRdata = some v ∧
    (s.busy = false → v = readReg a s) ∧ (a.toNat = 0x01 → v = s.statusWord) := by
  by_cases ha : a.toNat = 0x01
  · rw [showRead_eq_status ha]
    exact ⟨s.statusWord, rfl, fun _ => (readReg_status s ha).symm, fun _ => rfl⟩
  · cases hb : s.busy with
    | false =>
      rw [showRead_idle hb]
      exact ⟨readReg a s, rfl, fun _ => rfl, fun h => absurd h ha⟩
    | true =>
      obtain ⟨v, n, e⟩ := showRead_cases a s t
      exact ⟨v, by rw [e], fun h => Bool.noConfusion h, fun h => absurd h ha⟩

/-- Settles O20: the edge is `resetEngine`, whose frame holds what the statement leaves out, and then the port. -/
theorem resetEdgeRestoresEveryElement : Obligations.ResetEdgeRestoresEveryElement := by
  intro s c rest hc hin
  have hport := readPort_frame c.host (takeInput rest s) (resetEngine (takeInput rest s))
  refine ⟨_, step_rst hc hin, ?_, ?_, ?_, ?_, fun a ha => ?_, fun hr => ?_⟩
  · exact ((resetEngine_frame (takeInput rest s)).mono (by decide)).trans (hport.mono (by decide))
  · exact (hport .inputs (by decide)).symm
  · exact (hport .line (by decide)).symm
  · exact (hport .trace (by decide)).symm
  · rw [ha]
    obtain ⟨v, hv, hidle, hstatus⟩ := showRead_word a (takeInput rest s) (resetEngine (takeInput rest s))
    exact ⟨v, hv, fun hb => (hidle hb).trans (readReg_takeInput a rest s), hstatus⟩
  · rw [readPort_of_no_read hr]
    rfl

end Sys2Proof.Machine
end

section
/-! PROOFS. Quiet edges of `clk` while a bus-active command runs (40_bit_transport.md R140): a pulse does not look at
the schedule, and what a run of edges does is what its pulses do. -/

namespace Sys2Proof.Machine

/-! ### A pulse does not look at the schedule (R51) -/

theorem boundaryAction_takeInput (xs : List Input) (p : Prim) (t : Nat) (s : State) :
    boundaryAction p t (takeInput xs s) = takeInput xs (boundaryAction p t s) := by
  have hk : p.slotKind (takeInput xs s) = p.slotKind s := by cases p <;> rfl
  have ha (b : Nat) (f : State → State) (hf : ∀ u, f (takeInput xs u) = takeInput xs (f u)) (u : State) :
      atBoundary b t f (takeInput xs u) = takeInput xs (atBoundary b t f u) := by
    unfold atBoundary
    split
    · exact hf u
    · rfl
  have htp (u : State) : takePresence (takeInput xs u) = takeInput xs (takePresence u) := by
    rw [takePresence_eq, takePresence_eq]
    rfl
  have htb (u : State) : p.takeBit (takeInput xs u) = takeInput xs (p.takeBit u) := by
    rw [takeBit_eq, takeBit_eq]
    cases p <;> rfl
  unfold boundaryAction
  rw [hk]
  split
  · exact ha 0 (setSpul false) (fun _ => rfl) s
  · rw [ha 0 (setOwOut false) fun _ => rfl, ha _ (fun u => setOwOut true (setCrit true u)) fun _ => rfl,
      ha _ takePresence htp]
  · rw [ha 0 (fun u => setOwOut false (setCrit true u)) fun _ => rfl, ha _ (setOwOut true) fun _ => rfl,
      ha _ p.takeBit htb]
  · rw [ha 0 (fun u => setOwOut false (setCrit true u)) fun _ => rfl, ha _ (setOwOut _) fun _ => rfl,
      ha _ (fun u => setOwOut true (setCrit false u)) fun _ => rfl]

theorem complete_takeInput (xs : List Input) (i : Instr) (s : State) :
    complete i (takeInput xs s) = takeInput xs (complete i s) := by
  have hp : assertPullUp (takeInput xs s) = takeInput xs (assertPullUp s) := by
    simp only [assertPullUp, takeInput_spuEn, apply_ite (takeInput xs)]
    rfl
  cases i with
  | reset =>
    simp only [complete, takeInput_presence, apply_ite (takeInput xs)]
    rfl
  | readSpad =>
    simp only [complete, checkScratchpad, apply_ite (takeInput xs)]
    rfl
  | convert b | writeSpad | setRes b =>
    simp only [complete, hp]
    rfl
  | _ => rfl

theorem goTo_takeInput (xs : List Input) (i : Instr) (k : Nat) (s : State) :
    goTo i k (takeInput xs s) = takeInput xs (goTo i k s) := by
  unfold goTo
  split
  · exact complete_takeInput xs i s
  · next q _ => cases q <;> rfl

theorem nextPrim_takeInput (xs : List Input) (i : Instr) (p : Prim) (s : State) :
    nextPrim i p (takeInput xs s) = takeInput xs (nextPrim i p s) := by
  have hg (k : Nat) {u v : State} (h : u = takeInput xs v) : goTo i k u = takeInput xs (goTo i k v) :=
    h ▸ goTo_takeInput xs i k v
  cases p with
  | reset =>
    simp only [nextPrim, apply_ite (takeInput xs), hg _ rfl]
    rfl
  | readBit | sendByte v | searchComp | searchWrite =>
    simp only [nextPrim, apply_ite (takeInput xs)]
    congr 1 <;> exact hg _ rfl
  | _ => exact hg _ rfl

theorem endSlot_takeInput (xs : List Input) (i : Instr) (p : Prim) (s : State) :
    endSlot i p (takeInput xs s) = takeInput xs (endSlot i p s) := by
  have hslot : endedSlot p (takeInput xs s) = endedSlot p s := by cases p <;> rfl
  have hlen : (p.slotKind (takeInput xs s)).length (takeInput xs s) = (p.slotKind s).length s := by cases p <;> rfl
  have hstore (u : State) : storeByte p (takeInput xs u) = takeInput xs (storeByte p u) := by cases p <;> rfl
  have hbegin (k : Nat) (u : State) : beginByte p k (takeInput xs u) = takeInput xs (beginByte p k u) := by
    cases p <;> rfl
  have hrecord (l : List Slot) (n : Nat) (u : State) :
      recordSlot l n (takeInput xs u) = takeInput xs (recordSlot l n u) := rfl
  have hbit (u : State) : nextBit (takeInput xs u) = takeInput xs (nextBit u) := rfl
  simp only [endSlot, hslot, hlen, hrecord, hstore, hbegin, hbit, nextPrim_takeInput, takeInput_bitIx,
    takeInput_byteIx, apply_ite (takeInput xs)]

theorem pulse_takeInput (xs : List Input) (n : Nat) (s : State) :
    pulse n (takeInput xs s) = takeInput xs (pulse n s) := by
  induction n generalizing s with
  | zero => rfl
  | succ n ih =>
    have hrunning : running (takeInput xs s) = running s := rfl
    have hlen (p : Prim) : (p.slotKind (takeInput xs s)).length (takeInput xs s) = (p.slotKind s).length s := by
      cases p <;> rfl
    have hrun (p : Prim) : runBoundary p (takeInput xs s) = takeInput xs (runBoundary p s) := by
      simp only [runBoundary, takeInput_tcnt, boundaryAction_takeInput]
      rfl
    unfold pulse
    rw [hrunning, takeInput_stepIx]
    split
    · rfl
    · split
      · rfl
      · simp only [hlen, hrun, endSlot_takeInput, takeInput_tcnt, takeInput_busy, ih, apply_ite (takeInput xs)]

theorem usTick_takeInput (xs : List Input) (s : State) : usTick (takeInput xs s) = takeInput xs (usTick s) :=
  pulse_takeInput xs 3 s

/-! ### Quiet edges while a bus-active command runs (R140) -/

/-- A quiet edge of a running command: a pulse, or nothing. -/
theorem step_running {s : State} (hb : s.busy = true) (hh : s.hold = none) (u : Bool) (xs : List Input) :
    step (takeInput (.clk ⟨false, u, none⟩ :: xs) s) = .next (takeInput xs (if u then usTick s else s)) := by
  have he : stateEdge ⟨false, u, none⟩ (takeInput xs s) =
      .next (if u then usTick (takeInput xs s) else takeInput xs s) := by
    simp only [stateEdge, engineEdge, takeInput_busy, takeInput_hold, hb, hh, if_true, Bool.false_eq_true, if_false]
  rw [step_clk rfl, clkEdge_quiet]
  refine he.trans ?_
  rw [usTick_takeInput, apply_ite (takeInput xs)]

/-- The command of s is running and n more pulses leave it so; one more ends it in t. -/
structure EndsAfter (n : Nat) (s t : State) : Prop where
  busy : ∀ m ≤ n, (usTicks m s).busy = true ∧ (usTicks m s).hold = none
  last : usTicks (n + 1) s = t
  ended : t.busy = false

theorem EndsAfter.pred {n : Nat} {s t : State} (h : EndsAfter (n + 1) s t) : EndsAfter n (usTick s) t :=
  ⟨fun m hm => h.busy (m + 1) (Nat.succ_le_succ hm), h.last, h.ended⟩

/-- Quiet edges of a running command, by the pulses among them. -/
theorem EndsAfter.run {n : Nat} {s t : State} (h : EndsAfter n s t) {cs : List Cycle} (hcs : QuietCycles cs)
    (rest : List Input) : core.run cs.length (takeInput (cs.map Input.clk ++ rest) s) =
      .next (takeInput rest (if cs.countP (·.usTick) ≤ n then usTicks (cs.countP (·.usTick)) s else t)) := by
  induction cs generalizing n s with
  | nil => rfl
  | cons c cs ih =>
    obtain ⟨⟨u, rfl⟩, hcs'⟩ := hcs.cons
    obtain ⟨hb, hh⟩ := h.busy 0 (Nat.zero_le n)
    refine (run_succ (step_running hb hh u _) cs.length).trans ?_
    cases u with
    | false => exact ih h hcs'
    | true =>
      rw [List.countP_cons_of_pos rfl]
      cases n with
      | zero =>
        rw [if_neg (Nat.not_succ_le_zero _)]
        have hlast : usTick s = t := h.last
        exact (congrArg _ (congrArg _ hlast)).trans (run_idle h.ended hcs' rest)
      | succ n =>
        simp only [Nat.succ_le_succ_iff]
        exact ih h.pred hcs'

end Sys2Proof.Machine
end

section
/-! PROOFS. One primitive at tick level (40_bit_transport.md R140 to R146): a state of the slot level with the
sequencer's counters over it, what the end boundary of a slot leads to, and the pulses of a primitive as the slot
level's own update. -/

namespace Sys2Proof.Machine

/-! ### The sequencer over a state of the slot level (R49) -/

/-- The state s with the sequencer at STEP k, byte b, bit j, SHREG v and boundary c. -/
def seqAt (k b j : Nat) (v : Byte) (c : Nat) (s : State) : State :=
  { s with stepIx := k, byteIx := b, bitIx := j, shreg := v, tcnt := c }

/-- The end of a command puts the sequencer to rest wherever it stood (R282). -/
theorem complete_seqAt (i : Instr) (k b j : Nat) (v : Byte) (c : Nat) (s : State) :
    complete i (seqAt k b j v c s) = complete i s := by
  have hp : assertPullUp (seqAt k b j v c s) = seqAt k b j v c (assertPullUp s) :=
    (apply_ite (seqAt k b j v c) (s.spuEn = true) (setSpul true s) s).symm
  cases i with
  | convert b | writeSpad | setRes b =>
    simp only [complete, hp]
    rfl
  | _ => rfl

/-- A primitive begins alike wherever the sequencer stood before. -/
theorem goTo_seqAt (i : Instr) (m k b j : Nat) (v : Byte) (c : Nat) (s : State) :
    goTo i m (seqAt k b j v c s) = goTo i m s := by
  unfold goTo
  split
  · exact complete_seqAt i k b j v c s
  · next q _ => cases q <;> rfl

theorem goTo_of_prim {i : Instr} {m : Nat} {q : Prim} (h : (prims i)[m]? = some q) (s : State) :
    goTo i m s = seqAt m 0 0 (q.loadByte 0 s) 0 s := by
  simp only [goTo, h]
  cases q <;> rfl

theorem goTo_of_end {i : Instr} {m : Nat} (h : (prims i)[m]? = none) (s : State) : goTo i m s = complete i s := by
  simp only [goTo, h]

/-- The command i has been accepted and runs at tick level. -/
structure Engaged (i : Instr) (s : State) : Prop where
  busy : s.busy = true
  hold : s.hold = none
  run : running s = some i

theorem Engaged.issued_engaged {i : Instr} {s : State} (h : Engaged i s) (xs : List Slot) (n len : Nat) :
    Engaged i (issued xs n len s) := ⟨h.busy, h.hold, h.run⟩

theorem Engaged.prologue_engaged {i : Instr} {s : State} (h : Engaged i s) : Engaged i (prologue s) :=
  ⟨h.busy, h.hold, h.run⟩

/-- The reset slot returns what it writes to STATUS.PRESENCE (R142). -/
theorem resetSlot_presence (s : State) : (resetSlot s).2.presence = (resetSlot s).1 := by
  rw [resetSlot_eq]
  rfl

theorem Engaged.resetSlot_engaged {i : Instr} {s : State} (h : Engaged i s) : Engaged i (resetSlot s).2 := by
  rw [resetSlot_eq]
  exact ⟨h.busy, h.hold, h.run⟩

theorem Engaged.readSlot_engaged {i : Instr} {s : State} (h : Engaged i s) : Engaged i (readSlot s).2 := by
  rw [readSlot_eq]
  exact h.issued_engaged _ _ _

theorem Engaged.writeSlot_engaged {i : Instr} {s : State} (h : Engaged i s) (b : Bool) : Engaged i (writeSlot b s) :=
  ⟨h.busy, h.hold, h.run⟩

theorem Engaged.writeByteSeq_engaged {i : Instr} {s : State} (h : Engaged i s) (v : Byte) :
    Engaged i (writeByteSeq v s) := writeByteSeq_eq v s ▸ h.issued_engaged _ _ _

theorem Engaged.writeByteList_engaged {i : Instr} {s : State} (h : Engaged i s) (vs : List Byte) :
    Engaged i (writeByteList vs s) := by
  cases vs with
  | nil => exact h
  | cons v vs => exact writeByteList_cons_eq v vs s ▸ h.issued_engaged _ _ _

theorem Engaged.readByteSeq_engaged {i : Instr} {s : State} (h : Engaged i s) : Engaged i (readByteSeq s).2 :=
  (readByteSeq_eq s).1 ▸ h.issued_engaged _ _ _

theorem Engaged.seqAt_engaged {i : Instr} {s : State} (h : Engaged i s) (k b j : Nat) (v : Byte) (c : Nat) :
    Engaged i (seqAt k b j v c s) := ⟨h.busy, h.hold, h.run⟩

/-! ### What the end boundary of a slot leads to (R140) -/

/-- A slot has ended in s and the sequencer has gone on to t: no tick passes, and t has ended the command or stands
before boundary 0 of a primitive after the prologue. -/
def Follows (s t : State) : Prop := t.ticks = s.ticks ∧ (t.busy = true → t.tcnt = 0 ∧ t.stepIx ≠ 0)

theorem complete_busy (i : Instr) (s : State) : (complete i s).busy = false := by
  obtain ⟨c, n, u, e, -⟩ := complete_ends i s
  rw [e]
  rfl

theorem complete_ticks (i : Instr) (s : State) : (complete i s).ticks = s.ticks := by
  have hp : (assertPullUp s).ticks = s.ticks := (apply_ite State.ticks _ _ _).trans (ite_self _)
  cases i with
  | reset => exact (apply_ite State.ticks _ _ _).trans (ite_self _)
  | readSpad => exact (apply_ite State.ticks _ _ _).trans (ite_self _)
  | convert b | writeSpad | setRes b => exact hp
  | _ => rfl

theorem goTo_follows (i : Instr) {k : Nat} (hk : k ≠ 0) {s u : State} (hu : u.ticks = s.ticks) :
    Follows s (goTo i k u) := by
  cases hp : (prims i)[k]? with
  | none =>
    rw [goTo_of_end hp]
    exact ⟨(complete_ticks i u).trans hu, fun h => absurd h (by rw [complete_busy]; decide)⟩
  | some q =>
    rw [goTo_of_prim hp]
    exact ⟨hu, fun _ => ⟨rfl, hk⟩⟩

theorem raise_follows (c : Cause) (n : Pos) {s u : State} (hu : u.ticks = s.ticks) :
    Follows s (raise c n u) := ⟨hu, fun h => Bool.noConfusion h⟩

theorem nextPrim_follows {i : Instr} {p : Prim} {s : State} (hp : (prims i)[s.stepIx]? = some p) :
    Follows s (nextPrim i p s) := by
  have hn : s.stepIx + 1 ≠ 0 := Nat.succ_ne_zero _
  cases p with
  | reset =>
    simp only [nextPrim]
    split
    · exact goTo_follows i hn rfl
    · split
      · exact raise_follows _ _ rfl
      · exact raise_follows _ _ rfl
  | readBit =>
    simp only [nextPrim]
    split
    · exact goTo_follows i hn rfl
    · exact goTo_follows i hn rfl
  | sendByte v =>
    simp only [nextPrim]
    split
    · exact goTo_follows i hn rfl
    · exact goTo_follows i hn rfl
  | searchComp =>
    simp only [nextPrim]
    split
    · exact raise_follows _ _ rfl
    · exact goTo_follows i hn rfl
  | searchWrite =>
    have h5 := prims_searchWrite hp
    simp only [nextPrim]
    split
    · exact goTo_follows i hn rfl
    · exact goTo_follows i (by omega) rfl
  | _ => exact goTo_follows i hn rfl

/-- After the slot of the primitive p: the next bit, the next byte, or the end of p. -/
def slotEnd (i : Instr) (p : Prim) (s : State) : State :=
  if p.bytes = 0 then nextPrim i p s
  else if s.bitIx < 7 then nextBit s
  else
    let u := storeByte p s
    if u.byteIx + 1 < p.bytes then beginByte p (u.byteIx + 1) u else nextPrim i p u

theorem endSlot_eq (i : Instr) (p : Prim) (s : State) :
    endSlot i p s = slotEnd i p (recordSlot (endedSlot p s) ((p.slotKind s).length s) s) := rfl

theorem slotEnd_follows {i : Instr} {p : Prim} {s : State} (hp : (prims i)[s.stepIx]? = some p)
    (hk : p ≠ .prologue → s.stepIx ≠ 0) : Follows s (slotEnd i p s) := by
  have hstore : (storeByte p s).stepIx = s.stepIx ∧ (storeByte p s).ticks = s.ticks := by
    cases p <;> exact ⟨rfl, rfl⟩
  obtain ⟨hstep, hticks⟩ := hstore
  unfold slotEnd
  split
  · exact nextPrim_follows hp
  next h0 =>
  have hk' : s.stepIx ≠ 0 := hk fun e => h0 (e ▸ rfl)
  split
  · exact ⟨rfl, fun _ => ⟨rfl, hk'⟩⟩
  · dsimp only
    split
    · exact ⟨hticks, fun _ => ⟨rfl, hstep.trans_ne hk'⟩⟩
    · obtain ⟨ht, hb⟩ := nextPrim_follows (i := i) (p := p) (s := storeByte p s) (by rw [hstep, hp])
      exact ⟨ht.trans hticks, hb⟩

/-- The pulse that ends a slot is boundary 0 of what follows, and no more: no slot that follows has length 0. -/
theorem pulse_of_follows {s t : State} (h : Follows s t) (n : Nat) :
    (if t.busy then pulse (n + 1) t else t) = if t.busy then usTick t else t := by
  obtain ⟨-, hstart⟩ := h
  split
  · next hb =>
    obtain ⟨h0, hk⟩ := hstart hb
    cases hi : running t with
    | none => simp only [usTick, pulse, hi]
    | some i =>
      cases hp : (prims i)[t.stepIx]? with
      | none => simp only [usTick, pulse, hi, hp]
      | some p =>
        have hpro : p ≠ .prologue := fun e => hk (prims_prologue (e ▸ hp))
        have hlt : t.tcnt < (p.slotKind t).length t := h0 ▸ slotLength_pos hpro t
        rw [pulse_within n hi hp hlt, usTick_within hi hp hlt]
  · rfl

/-! ### From one slot to the next -/

/-- The pulse in which the engine comes to s goes on from there: it is boundary 0 of the slot that begins, or the
command is over. -/
def begun (s : State) : State := if s.busy then usTick s else s

/-- From the pulse in which the engine comes to s it is busy until the pulse in which it comes to t, and that one
comes as many pulses later as t counts ticks more than s. -/
def Passes (s t : State) : Prop :=
  ∃ n, t.ticks = s.ticks + n ∧
    (∀ m < n, (usTicks m (begun s)).busy = true ∧ (usTicks m (begun s)).hold = none) ∧
    usTicks n (begun s) = begun t

theorem Passes.refl (s : State) : Passes s s := ⟨0, rfl, fun _ h => absurd h (Nat.not_lt_zero _), rfl⟩

theorem Passes.trans {s t u : State} (h : Passes s t) (k : Passes t u) : Passes s u := by
  obtain ⟨n, hn, hbusy, hend⟩ := h
  obtain ⟨m, hm, kbusy, kend⟩ := k
  refine ⟨n + m, by omega, fun j hj => ?_, by rw [usTicks_add, hend, kend]⟩
  by_cases hlt : j < n
  · exact hbusy j hlt
  · obtain ⟨d, rfl⟩ := Nat.exists_eq_add_of_le (Nat.le_of_not_lt hlt)
    rw [usTicks_add, hend]
    exact kbusy d (by omega)

/-- What every boundary of a primitive keeps, all of them keep. -/
theorem boundariesFrom_keeps {α : Type} (g : State → α) (p : Prim) (h : ∀ t s, g (boundaryAction p t s) = g s)
    (n t : Nat) (s : State) : g (boundariesFrom p n t s) = g s := by
  induction n generalizing t s with
  | zero => rfl
  | succ n ih => exact (ih (t + 1) _).trans (h t s)

theorem boundaryAction_ticks (p : Prim) (t : Nat) (s : State) : (boundaryAction p t s).ticks = s.ticks :=
  boundaryAction_keeps State.ticks p t s (fun _ _ => rfl) (fun _ _ => rfl) (fun _ _ => rfl) (fun _ _ => rfl)
    (fun _ => rfl) (fun _ b u => by cases p <;> rfl)

/-- The prologue is the first primitive, and only it. -/
theorem prims_ne_zero {i : Instr} {k : Nat} {p : Prim} (h : (prims i)[k]? = some p) (hp : p ≠ .prologue) : k ≠ 0 := by
  rintro rfl
  rcases prims_prologue_first i with e | ⟨e, -⟩
  · simp [e] at h
  · rw [e] at h
    exact hp (Option.some.inj h).symm

/-- The end boundary of a slot does nothing but end it (R142 to R144). -/
theorem boundariesFrom_end {p : Prim} {s : State} {n : Nat} (hpro : p ≠ .prologue)
    (hn : (p.slotKind s).length s = n) : boundariesFrom p (n + 1) 0 s = boundariesFrom p n 0 s := by
  obtain ⟨-, -, -, -, -, -, -, hspu⟩ := boundariesFrom_place p n 0 s
  have e := boundaryAction_end p (boundariesFrom p n 0 s) hpro
  rw [slotLength_congr p s _ hspu, hn] at e
  rw [boundariesFrom_add, boundariesFrom_one, Nat.zero_add, e]

/-- What follows the boundaries of a slot of the primitive p, the end boundary among them. -/
theorem slotEnd_follows_slot {i : Instr} {p : Prim} {s u : State} (hp : (prims i)[s.stepIx]? = some p) {n : Nat}
    (hu : boundariesFrom p (n + 1) 0 s = u) : Follows (recordSlot (endedSlot p u) n (setTcnt (n + 1) u))
      (slotEnd i p (recordSlot (endedSlot p u) n (setTcnt (n + 1) u))) := by
  obtain ⟨-, -, hstep, -, -, -, -, -⟩ := boundariesFrom_place p (n + 1) 0 s
  rw [hu] at hstep
  refine slotEnd_follows ?_ fun hpro => hstep.trans_ne (prims_ne_zero hp hpro)
  rw [recordSlot_stepIx, setTcnt_stepIx, hstep, hp]

section
variable {i : Instr} {s : State} (h : Engaged i s) {p : Prim} (hp : (prims i)[s.stepIx]? = some p) (h0 : s.tcnt = 0)
  {n : Nat} (hn : (p.slotKind s).length s = n)
include h hp h0 hn

/-- The first n pulses of a slot of length n are its boundaries 0 to n − 1. -/
theorem Engaged.usTicks_slot {m : Nat} (hm : m ≤ n) : usTicks m s = setTcnt m (boundariesFrom p m 0 s) := by
  have e := usTicks_within m s h.run hp (by omega)
  rwa [h0, Nat.zero_add] at e

/-- The pulse after them is the end boundary, and goes on from what it leads to. -/
theorem Engaged.usTicks_slotEnd {u : State} (hu : boundariesFrom p (n + 1) 0 s = u) :
    usTicks (n + 1) s = begun (slotEnd i p (recordSlot (endedSlot p u) n (setTcnt (n + 1) u))) := by
  obtain ⟨hopc, harg, hstep, -, -, -, -, hspu⟩ := boundariesFrom_place p n 0 s
  obtain ⟨-, -, -, -, -, -, -, hspu'⟩ := boundariesFrom_place p (n + 1) 0 s
  rw [hu] at hspu'
  have hrun : running (setTcnt n (boundariesFrom p n 0 s)) = some i := by
    rw [← h.run]
    simp only [running, setTcnt_opc, setTcnt_arg, hopc, harg]
  have hprim : (prims i)[(setTcnt n (boundariesFrom p n 0 s)).stepIx]? = some p := by
    rw [setTcnt_stepIx, hstep, hp]
  have hlen := (slotLength_congr p s (setTcnt n (boundariesFrom p n 0 s)) hspu).trans hn
  have hlast : runBoundary p (setTcnt n (boundariesFrom p n 0 s)) = setTcnt (n + 1) u := by
    rw [← hu, boundariesFrom_add, runBoundary, boundaryAction_setTcnt, boundariesFrom_one, Nat.zero_add]
    rfl
  have hend : endSlot i p (setTcnt (n + 1) u) = slotEnd i p (recordSlot (endedSlot p u) n (setTcnt (n + 1) u)) := by
    have hslot : endedSlot p (setTcnt (n + 1) u) = endedSlot p u := by cases p <;> rfl
    rw [endSlot_eq, slotLength_congr p s (setTcnt (n + 1) u) hspu', hn, hslot]
  have hpulse : usTicks (n + 1) s = usTick (setTcnt n (boundariesFrom p n 0 s)) := by
    rw [usTicks_add, h.usTicks_slot hp h0 hn (Nat.le_refl n)]
    rfl
  rw [hpulse, usTick, pulse_end 2 hrun hprim hlen.le, hlast, hend, pulse_of_follows (slotEnd_follows_slot hp hu),
    begun]

/-- A whole slot of a running command, from its boundary 0 to the pulse that ends it. -/
theorem Engaged.slot_passes {u : State} (hu : boundariesFrom p (n + 1) 0 s = u) :
    Passes s (slotEnd i p (recordSlot (endedSlot p u) n (setTcnt (n + 1) u))) := by
  have hbegun : begun s = usTick s := if_pos h.busy
  refine ⟨n, ?_, fun m hm => ?_, hbegun ▸ h.usTicks_slotEnd hp h0 hn hu⟩
  · obtain ⟨hticks, -⟩ := slotEnd_follows_slot hp hu
    rw [hticks, recordSlot_ticks, setTcnt_ticks, ← hu, boundariesFrom_keeps State.ticks p (boundaryAction_ticks p)]
  · obtain ⟨-, -, -, -, -, -, hbusy, -⟩ := boundariesFrom_place p (m + 1) 0 s
    have e : usTicks m (usTick s) = setTcnt (m + 1) (boundariesFrom p (m + 1) 0 s) := h.usTicks_slot hp h0 hn hm
    rw [hbegun, e]
    exact ⟨hbusy.trans h.busy,
      (boundariesFrom_keeps State.hold p (boundaryAction_hold p) (m + 1) 0 s).trans h.hold⟩

end

/-! ### Single slots (R141 to R144) -/

section
variable {i : Instr} {s : State} (h : Engaged i s)
include h

/-- The prologue (R141). -/
theorem Engaged.prologue_passes (hp : (prims i)[0]? = some .prologue) :
    Passes (goTo i 0 s) (goTo i 1 (prologue s)) := by
  have hu : boundariesFrom .prologue (prologueLength s + 1) 0 (seqAt 0 0 0 0 0 s) =
      setSpul false (seqAt 0 0 0 0 0 s) := by
    unfold prologueLength
    cases s.spuEn <;> rfl
  have hslot := (h.seqAt_engaged 0 0 0 0 0).slot_passes hp rfl rfl hu
  have hend : recordSlot [] (prologueLength s) (setTcnt (prologueLength s + 1)
      (setSpul false (seqAt 0 0 0 0 0 s))) = seqAt 0 0 0 0 (prologueLength s + 1) (prologue s) := by
    simp only [recordSlot, List.append_nil]
    rfl
  rw [goTo_of_prim hp, ← goTo_seqAt i 1 0 0 0 0 (prologueLength s + 1), ← hend]
  exact hslot

/-- A reset slot (R142). -/
theorem Engaged.resetSlot_passes {k : Nat} (hp : (prims i)[k]? = some .reset) :
    Passes (goTo i k s) (nextPrim i .reset (seqAt k 0 0 0 961 (resetSlot s).2)) := by
  have hu := (boundariesFrom_end (p := .reset) (s := seqAt k 0 0 0 0 s) (by decide) rfl).trans
    (boundariesFrom_reset _)
  rw [goTo_of_prim hp, resetSlot_eq]
  exact (h.seqAt_engaged k 0 0 0 0).slot_passes hp rfl rfl hu

/-- A read slot (R143): the sample goes where the primitive puts it. -/
theorem Engaged.readSlot_passes {p : Prim} (hread : ∀ u, p.slotKind u = .read) {k : Nat}
    (hp : (prims i)[k]? = some p) (b : Nat) {j : Nat} (hj : j < 8) (v : Byte) :
    Passes (seqAt k b j v 0 s) (slotEnd i p (p.storeBit (readSlot s).1 (seqAt k b j v 49 (readSlot s).2))) := by
  have hpro : p ≠ .prologue := by
    rintro rfl
    cases hread s
  have hlen (u : State) : (p.slotKind u).length u = 48 := by rw [hread]; rfl
  have hu := (boundariesFrom_end (s := seqAt k b j v 0 s) hpro (hlen _)).trans
    (boundariesFrom_read p hread _)
  have hslot := (h.seqAt_engaged k b j v 0).slot_passes hp rfl (hlen _) hu
  have hended (x : Bool) {u : State} (hu : u.bitIx < 8) : endedSlot p (p.storeBit x u) = [.read x] := by
    have hbit : (setBit u.shreg u.bitIx x).getLsbD u.bitIx = x := by rw [getLsbD_setBit _ _ _ _ hu, if_pos rfl]
    cases p with
    | searchId | searchComp => rfl
    | readBit | recvData | recvBuf n => exact congrArg (fun y => [Slot.read y]) hbit
    | _ => cases hread s
  have hstore (x : Bool) (xs : List Slot) (n c : Nat) (u : State) : recordSlot xs n (setTcnt c (p.storeBit x u)) =
      p.storeBit x (recordSlot xs n (setTcnt c u)) := by cases p <;> rfl
  rw [hended _ hj, hstore] at hslot
  rw [readSlot_eq]
  exact hslot

/-- A write slot (R144). -/
theorem Engaged.writeSlot_passes {p : Prim} {x : Bool} {k b j : Nat} {v : Byte} (hp : (prims i)[k]? = some p)
    (hwrite : ∀ o c, p.slotKind (setOwOut o (setCrit c (seqAt k b j v 0 s))) = .write x) :
    Passes (seqAt k b j v 0 s) (slotEnd i p (seqAt k b j v 65 (writeSlot x s))) := by
  have hkind : p.slotKind (seqAt k b j v 0 s) = .write x := hwrite s.owOut s.crit
  have hpro : p ≠ .prologue := by
    rintro rfl
    cases hkind
  have hlen : (p.slotKind (seqAt k b j v 0 s)).length (seqAt k b j v 0 s) = 64 := by
    rw [hkind]
    rfl
  have hu := (boundariesFrom_end hpro hlen).trans (boundariesFrom_write p x _ hwrite hkind)
  have hslot := (h.seqAt_engaged k b j v 0).slot_passes hp rfl hlen hu
  have hended : endedSlot p (setOwOut true (setCrit false (seqAt k b j v 0 s))) = [.write x] := by
    simp only [endedSlot, hwrite]
  rw [hended] at hslot
  exact hslot

end

/-! ### Bytes (R145, R146) -/

/-- The primitives at whose end the command only goes on to the next one. -/
def Prim.plain : Prim → Bool
  | .reset => false
  | .readBit => false
  | .sendByte _ => false
  | .searchComp => false
  | .searchWrite => false
  | _ => true

theorem nextPrim_plain {p : Prim} (hp : p.plain = true) (i : Instr) (k b j : Nat) (v : Byte) (c : Nat) (s : State) :
    nextPrim i p (seqAt k b j v c s) = goTo i (k + 1) s := by
  cases p with
  | reset | readBit | sendByte v | searchComp | searchWrite => cases hp
  | _ => exact goTo_seqAt i (k + 1) k b j v c s

/-- A primitive that sends bytes: the bit on the line is the bit BITIX of SHREG. -/
def Prim.sends (p : Prim) : Prop :=
  p.bytes ≠ 0 ∧ (∀ u : State, p.slotKind u = .write (u.shreg.getLsbD u.bitIx)) ∧ ∀ u : State, storeByte p u = u

/-- A primitive that assembles bytes: the sample goes to the bit BITIX of SHREG. -/
def Prim.receives (p : Prim) : Prop :=
  p.bytes ≠ 0 ∧ (∀ u : State, p.slotKind u = .read) ∧
    ∀ (x : Bool) (u : State), p.storeBit x u = setShreg (setBit u.shreg u.bitIx x) u

theorem slotEnd_single {p : Prim} (hp : p.bytes = 0) (i : Instr) (s : State) : slotEnd i p s = nextPrim i p s :=
  if_pos hp

theorem slotEnd_bit {p : Prim} (hp : p.bytes ≠ 0) (i : Instr) (k b : Nat) {j : Nat} (hj : j < 7) (v : Byte) (c : Nat)
    (s : State) : slotEnd i p (seqAt k b j v c s) = seqAt k b (j + 1) v 0 s :=
  (if_neg hp).trans (if_pos hj)

/-- After the last bit of a byte: the next byte, or the end of the primitive. -/
theorem slotEnd_byte {p : Prim} (hp : p.bytes ≠ 0) (i : Instr) (k b : Nat) (v : Byte) (c : Nat) (s : State)
    {u : State} (hu : storeByte p (seqAt k b 7 v c s) = seqAt k b 7 v c u) : slotEnd i p (seqAt k b 7 v c s) =
      if b + 1 < p.bytes then seqAt k (b + 1) 0 (p.loadByte (b + 1) u) 0 u else nextPrim i p (seqAt k b 7 v c u) := by
  have hbegin : beginByte p (b + 1) (seqAt k b 7 v c u) = seqAt k (b + 1) 0 (p.loadByte (b + 1) u) 0 u := by
    cases p <;> rfl
  refine (if_neg hp).trans ((if_neg (Nat.lt_irrefl 7)).trans ?_)
  rw [hu, ← hbegin]
  rfl

theorem writeByteList_cons (v : Byte) (vs : List Byte) (s : State) :
    writeByteList (v :: vs) s = writeByteList vs (writeByteSeq v s) := rfl

section
variable {i : Instr} {s : State} (h : Engaged i s) {p : Prim} {k : Nat} (hp : (prims i)[k]? = some p)
include h hp

/-- The write slots of the bits j, j + 1, ..., 7 of the byte in SHREG. -/
theorem Engaged.writeBits_passes (hs : p.sends) (b : Nat) (v : Byte) {j n : Nat} (hj : j + n = 7) :
    Passes (seqAt k b j v 0 s) (slotEnd i p (seqAt k b 7 v 65
      (writeBits ((List.range' j (n + 1)).map v.getLsbD) s))) := by
  obtain ⟨hbytes, hwrite, -⟩ := hs
  have hbit {t : State} (ht : Engaged i t) (m : Nat) : Passes (seqAt k b m v 0 t)
      (slotEnd i p (seqAt k b m v 65 (writeSlot (v.getLsbD m) t))) :=
    ht.writeSlot_passes hp fun _ _ => hwrite _
  induction n generalizing j s with
  | zero =>
    obtain rfl : j = 7 := hj
    exact hbit h 7
  | succ n ih =>
    have hj' := hbit h j
    rw [slotEnd_bit hbytes i k b (by omega)] at hj'
    exact hj'.trans (ih (h.writeSlot_engaged _) (by omega))

/-- The read slots of the bits j, j + 1, ..., 7 of the byte in SHREG. -/
theorem Engaged.readBits_passes (hs : p.receives) (b : Nat) (v : Byte) {j n : Nat} (hj : j + n = 7) :
    Passes (seqAt k b j v 0 s) (slotEnd i p (seqAt k b 7 (readBitsFrom j (n + 1) v s).1 49
      (readBitsFrom j (n + 1) v s).2)) := by
  obtain ⟨hbytes, hread, hstore⟩ := hs
  have hbit {t : State} (ht : Engaged i t) (x : Byte) {m : Nat} (hm : m < 8) : Passes (seqAt k b m x 0 t)
      (slotEnd i p (seqAt k b m (setBit x m (readSlot t).1) 49 (readSlot t).2)) := by
    have hslot := ht.readSlot_passes hread hp b hm x
    rwa [hstore] at hslot
  induction n generalizing j v s with
  | zero =>
    obtain rfl : j = 7 := hj
    exact hbit h v (by decide)
  | succ n ih =>
    have hj' := hbit h v (m := j) (by omega)
    rw [slotEnd_bit hbytes i k b (by omega)] at hj'
    exact hj'.trans (ih h.readSlot_engaged _ (by omega))

theorem Engaged.writeByteSeq_passes (hs : p.sends) (b : Nat) (v : Byte) :
    Passes (seqAt k b 0 v 0 s) (slotEnd i p (seqAt k b 7 v 65 (writeByteSeq v s))) := by
  have hw := h.writeBits_passes hp hs b v (j := 0) (n := 7) rfl
  rwa [← List.range_eq_range'] at hw

theorem Engaged.readByteSeq_passes (hs : p.receives) (b : Nat) :
    Passes (seqAt k b 0 0 0 s) (slotEnd i p (seqAt k b 7 (readByteSeq s).1 49 (readByteSeq s).2)) :=
  h.readBits_passes hp hs b 0 rfl

/-- The bytes b, b + 1, ... up to the last one of a primitive that sends. -/
theorem Engaged.writeBytes_passes (hs : p.sends) {b n : Nat} (hb : b + n + 1 = p.bytes) :
    ∃ v, Passes (seqAt k b 0 (p.loadByte b s) 0 s) (nextPrim i p (seqAt k (b + n) 7 v 65
      (writeByteList ((List.range' b (n + 1)).map fun c => p.loadByte c s) s))) := by
  have hbyte {t : State} (ht : Engaged i t) (c : Nat) (v : Byte) := ht.writeByteSeq_passes hp hs c v
  obtain ⟨hbytes, -, hstore⟩ := hs
  induction n generalizing b s with
  | zero =>
    have hw := hbyte h b (p.loadByte b s)
    rw [slotEnd_byte hbytes i _ _ _ _ _ (hstore _), if_neg (by omega)] at hw
    exact ⟨p.loadByte b s, hw⟩
  | succ n ih =>
    have hw := hbyte h b (p.loadByte b s)
    rw [slotEnd_byte hbytes i _ _ _ _ _ (hstore _), if_pos (by omega)] at hw
    have hload (c : Nat) : p.loadByte c (writeByteSeq (p.loadByte b s) s) = p.loadByte c s := by
      rw [writeByteSeq_eq]
      cases p <;> rfl
    obtain ⟨v, hrest⟩ := ih (h.writeByteSeq_engaged (p.loadByte b s)) (b := b + 1) (by omega)
    simp only [hload, Nat.add_right_comm b 1 n] at hrest hw
    rw [List.range'_succ, List.map_cons, writeByteList_cons]
    exact ⟨v, hw.trans hrest⟩

end

section
variable {i : Instr} {s : State} (h : Engaged i s) {k : Nat}
include h

/-- `WriteByteSeq(ROM[k])` for k = 0 to 7 (R231). -/
theorem Engaged.sendRom_passes (hp : (prims i)[k]? = some .sendRom) :
    Passes (goTo i k s) (goTo i (k + 1) (writeByteList (romBytes s.rom) s)) := by
  obtain ⟨v, hw⟩ := h.writeBytes_passes hp ⟨by decide, fun _ => rfl, fun _ => rfl⟩ (b := 0) (n := 7) rfl
  rw [← List.range_eq_range', nextPrim_plain rfl] at hw
  exact goTo_of_prim hp s ▸ hw

/-- `WriteByteSeq(BUF[a + k])` for k = 0 to n (R153, R245). -/
theorem Engaged.sendBuf_passes {a n : Nat} (hp : (prims i)[k]? = some (.sendBuf a (n + 1))) :
    Passes (goTo i k s) (goTo i (k + 1) (writeByteList (bufBytes s.buf a (n + 1)) s)) := by
  obtain ⟨v, hw⟩ := h.writeBytes_passes hp ⟨Nat.succ_ne_zero n, fun _ => rfl, fun _ => rfl⟩ (b := 0) (n := n)
    (congrArg Nat.succ (Nat.zero_add n))
  rw [← List.range_eq_range', nextPrim_plain rfl] at hw
  exact goTo_of_prim hp s ▸ hw

/-- One byte (R146), up to what the command does after it. -/
theorem Engaged.sendByte_passes {v : Byte} (hp : (prims i)[k]? = some (.sendByte v)) :
    ∃ x, Passes (goTo i k s) (nextPrim i (.sendByte v) (seqAt k 0 7 x 65 (writeByteSeq v s))) := by
  obtain ⟨x, hw⟩ := h.writeBytes_passes hp ⟨Nat.one_ne_zero, fun _ => rfl, fun _ => rfl⟩ (b := 0) (n := 0) rfl
  exact ⟨x, goTo_of_prim hp s ▸ hw⟩

/-- One byte of a command other than SEARCH_NEXT. -/
theorem Engaged.sendByte_passes_on {v : Byte} (hp : (prims i)[k]? = some (.sendByte v)) (hi : i ≠ .searchNext) :
    Passes (goTo i k s) (goTo i (k + 1) (writeByteSeq v s)) := by
  obtain ⟨x, hw⟩ := h.sendByte_passes hp
  rw [nextPrim, if_neg hi, goTo_seqAt] at hw
  exact hw

/-- `DATA <- ReadByteSeq()` (R150). -/
theorem Engaged.recvData_passes (hp : (prims i)[k]? = some .recvData) :
    Passes (goTo i k s) (goTo i (k + 1) (setData (readByteSeq s).1 (readByteSeq s).2)) := by
  have hr := h.readByteSeq_passes hp ⟨by decide, fun _ => rfl, fun _ _ => rfl⟩ 0
  rw [slotEnd_byte (by decide) i k 0 _ 49 _ (u := setData (readByteSeq s).1 (readByteSeq s).2) rfl,
    if_neg (by decide), nextPrim_plain rfl] at hr
  exact goTo_of_prim hp s ▸ hr

/-- `BUF[b] <- ReadByteSeq()` up to the last byte of the primitive (R152, R243). -/
theorem Engaged.readBuf_passes {m b n : Nat} (hp : (prims i)[k]? = some (.recvBuf m)) (hb : b + n + 1 = m) :
    Passes (seqAt k b 0 0 0 s) (goTo i (k + 1) (readBufFrom b (n + 1) s)) := by
  have hm : (Prim.recvBuf m).bytes ≠ 0 := hb ▸ Nat.succ_ne_zero _
  have hbyte {t : State} (ht : Engaged i t) (c : Nat) := ht.readByteSeq_passes hp ⟨hm, fun _ => rfl, fun _ _ => rfl⟩ c
  have hend (c : Nat) (t : State) : slotEnd i (.recvBuf m) (seqAt k c 7 (readByteSeq t).1 49
      (readByteSeq t).2) = if c + 1 < m then
        seqAt k (c + 1) 0 0 0 (setBufByte c (readByteSeq t).1 (readByteSeq t).2)
      else nextPrim i (.recvBuf m) (seqAt k c 7 (readByteSeq t).1 49
        (setBufByte c (readByteSeq t).1 (readByteSeq t).2)) :=
    slotEnd_byte hm i k c _ 49 _ rfl
  induction n generalizing b s with
  | zero =>
    have hr := hbyte h b
    rw [hend b s, if_neg (by omega), nextPrim_plain rfl] at hr
    exact hr
  | succ n ih =>
    have hr := hbyte h b
    rw [hend b s, if_pos (by omega)] at hr
    have he := h.readByteSeq_engaged
    have hw : Engaged i (setBufByte b (readByteSeq s).1 (readByteSeq s).2) := ⟨he.busy, he.hold, he.run⟩
    exact hr.trans (ih hw (by omega))

theorem Engaged.recvBuf_passes {n : Nat} (hp : (prims i)[k]? = some (.recvBuf (n + 1))) :
    Passes (goTo i k s) (goTo i (k + 1) (readBufFrom 0 (n + 1) s)) :=
  goTo_of_prim hp s ▸ h.readBuf_passes hp (congrArg Nat.succ (Nat.zero_add n))

/-! ### Single bits and the presence -/

theorem Engaged.writeBit_passes {b : Bool} (hp : (prims i)[k]? = some (.writeBit b)) :
    Passes (goTo i k s) (goTo i (k + 1) (writeSlot b s)) := by
  have hw := h.writeSlot_passes (b := 0) (j := 0) (v := 0) hp fun _ _ => rfl
  rw [slotEnd_single rfl, nextPrim_plain rfl] at hw
  exact goTo_of_prim hp s ▸ hw

/-- One read slot: its sample goes to DATA (R148) or to PMODE (R262). -/
theorem Engaged.readBit_passes (hp : (prims i)[k]? = some .readBit) :
    Passes (goTo i k s) (goTo i (k + 1) (if i = .readBit then
      setData (bitByte (readSlot s).1) (readSlot s).2
      else setPmode (readSlot s).1 (readSlot s).2)) := by
  have hr := h.readSlot_passes (fun _ => rfl) hp 0 (j := 0) (by decide) 0
  have hbit (x : Bool) : (setBit 0 0 x).getLsbD 0 = x := by rw [getLsbD_setBit _ _ _ _ (by decide), if_pos rfl]
  have hend (x : Bool) (u : State) : nextPrim i .readBit (Prim.readBit.storeBit x (seqAt k 0 0 0 49 u)) =
      goTo i (k + 1) (if i = .readBit then setData (bitByte x) u else setPmode x u) := by
    have hshreg : (Prim.readBit.storeBit x (seqAt k 0 0 0 49 u)).shreg.getLsbD 0 = x := hbit x
    rw [nextPrim, hshreg]
    split
    · exact goTo_seqAt i (k + 1) k 0 0 (setBit 0 0 x) 49 (setData (bitByte x) u)
    · exact goTo_seqAt i (k + 1) k 0 0 (setBit 0 0 x) 49 (setPmode x u)
  rw [slotEnd_single rfl, hend] at hr
  exact goTo_of_prim hp s ▸ hr

/-- With presence, and in RESET whatever the sample, the command goes on after the reset slot (R147, R235). -/
theorem Engaged.resetSlot_passes_on (hp : (prims i)[k]? = some .reset)
    (hr : (resetSlot s).1 = true ∨ i = .reset) :
    Passes (goTo i k s) (goTo i (k + 1) (resetSlot s).2) := by
  have hslot := h.resetSlot_passes hp
  have hcond : ((seqAt k 0 0 0 961 (resetSlot s).2).presence || decide (i = .reset)) = true := by
    rw [Bool.or_eq_true, decide_eq_true_eq]
    exact hr.imp_left (resetSlot_presence s).trans
  rw [nextPrim, if_pos hcond] at hslot
  exact goTo_seqAt i (k + 1) k 0 0 0 961 _ ▸ hslot

/-- Without presence every other command ends there (R292, R209). -/
theorem Engaged.resetSlot_passes_absent (hp : (prims i)[k]? = some .reset) (hr : (resetSlot s).1 ≠ true)
    (hi : i ≠ .reset) : Passes (goTo i k s) (raise .busAbsent 0 (if i = .searchNext then
      setLdisc 0 (resetSlot s).2 else (resetSlot s).2)) := by
  have hslot := h.resetSlot_passes hp
  have hcond : ¬ ((seqAt k 0 0 0 961 (resetSlot s).2).presence || decide (i = .reset)) = true := by
    rw [Bool.or_eq_true, decide_eq_true_eq]
    exact not_or.mpr ⟨fun e => hr ((resetSlot_presence s).symm.trans e), hi⟩
  rw [nextPrim, if_neg hcond] at hslot
  by_cases hs : i = .searchNext
  · rw [if_pos hs] at hslot ⊢
    exact hslot
  · rw [if_neg hs] at hslot ⊢
    exact hslot

end

end Sys2Proof.Machine
end

section
/-! PROOFS. The statement about the two levels of a bus-active command (45_system.md R289, 70_reset_and_hazards.md
R352): the primitives of each command one after the other lead to the state that `exec` answers, in as many pulses of
`us_tick` as that state counts ticks. -/

namespace Sys2Proof.Machine

/-! ### The search loop (R207) -/

section
variable {s : State} (h : Engaged .searchNext s)
include h

theorem Engaged.searchId_passes :
    Passes (goTo .searchNext 3 s) (goTo .searchNext 4 (setIdb (readSlot s).1 (readSlot s).2)) := by
  have hr := h.readSlot_passes (p := .searchId) (fun _ => rfl) (k := 3) rfl 0 (j := 0) (by decide) 0
  rw [slotEnd_single rfl] at hr
  exact hr

theorem Engaged.searchComp_passes {t : State} (ht : t = setCmpb (readSlot s).1 (readSlot s).2) :
    Passes (goTo .searchNext 4 s)
      (if t.idb && t.cmpb then raise .busCollisionFault t.pos t else goTo .searchNext 5 t) := by
  have hr := h.readSlot_passes (p := .searchComp) (fun _ => rfl) (k := 4) rfl 0 (j := 0) (by decide) 0
  rw [slotEnd_single rfl] at hr
  subst ht
  exact hr

theorem Engaged.searchWrite_passes {t : State} (ht : t = recordChoice (writeSlot (chosenBit s) s)) :
    Passes (goTo .searchNext 5 s) (if t.pos.toNat ≤ 1 then goTo .searchNext 6 t
      else goTo .searchNext 3 (setPosition (t.pos.toNat - 1) t)) := by
  have hw := h.writeSlot_passes (p := .searchWrite) (x := chosenBit s) (k := 5) (b := 0) (j := 0) (v := 0) rfl
    fun _ _ => rfl
  rw [slotEnd_single rfl] at hw
  subst ht
  exact hw

end

/-- The state after the two read slots of position n (R203). -/
def answeredAt (n : Nat) (s : State) : State :=
  let r1 := readSlot (setPosition n s)
  let r2 := readSlot (setIdb r1.1 r1.2)
  setCmpb r2.1 r2.2

theorem answeredAt_pos (n : Nat) (s : State) : (answeredAt n s).pos = BitVec.ofNat 7 n := by
  simp only [answeredAt, readSlot_eq]
  rfl

/-- The state after the write slot of position n (R204, R205). -/
def writtenAt (n : Nat) (s : State) : State :=
  recordChoice (writeSlot (chosenBit (answeredAt n s)) (answeredAt n s))

theorem searchFrom_writtenAt (n : Nat) (s : State) : searchFrom (n + 1) s =
    if (answeredAt (n + 1) s).idb && (answeredAt (n + 1) s).cmpb then
      raise .busCollisionFault (answeredAt (n + 1) s).pos (answeredAt (n + 1) s)
    else searchFrom n (writtenAt (n + 1) s) := rfl

theorem Engaged.answeredAt_engaged {s : State} (h : Engaged .searchNext s) (n : Nat) :
    Engaged .searchNext (answeredAt n s) := by
  simp only [answeredAt, readSlot_eq]
  exact ⟨h.busy, h.hold, h.run⟩

theorem Engaged.writtenAt_engaged {s : State} (h : Engaged .searchNext s) (n : Nat) :
    Engaged .searchNext (writtenAt n s) := by
  obtain ⟨hb, hh, hr⟩ := h.answeredAt_engaged n
  exact ⟨hb, hh, hr⟩

/-- One position of the loop: the fault, the end of the loop, or the position below. -/
theorem Engaged.searchPosition_passes {s : State} (h : Engaged .searchNext s) {n : Nat} (hn : n + 1 ≤ 64) :
    Passes (goTo .searchNext 3 (setPosition (n + 1) s))
      (if (answeredAt (n + 1) s).idb && (answeredAt (n + 1) s).cmpb then
        raise .busCollisionFault (answeredAt (n + 1) s).pos (answeredAt (n + 1) s)
      else if n = 0 then goTo .searchNext 6 (writtenAt (n + 1) s)
      else goTo .searchNext 3 (setPosition n (writtenAt (n + 1) s))) := by
  have h0 : Engaged .searchNext (setPosition (n + 1) s) := ⟨h.busy, h.hold, h.run⟩
  have hr := h0.readSlot_engaged
  have h1 : Engaged .searchNext (setIdb (readSlot (setPosition (n + 1) s)).1
      (readSlot (setPosition (n + 1) s)).2) := ⟨hr.busy, hr.hold, hr.run⟩
  have hread := h0.searchId_passes.trans (h1.searchComp_passes (t := answeredAt (n + 1) s) rfl)
  have hwrite := (h.answeredAt_engaged (n + 1)).searchWrite_passes (t := writtenAt (n + 1) s) rfl
  have hpos : (writtenAt (n + 1) s).pos.toNat = n + 1 :=
    (congrArg _ (answeredAt_pos (n + 1) s)).trans (toNat_ofNat_position hn)
  split
  · next hc => rwa [if_pos hc] at hread
  · next hc =>
    rw [if_neg hc] at hread
    have hlast : n + 1 ≤ 1 ↔ n = 0 := by omega
    simp only [hpos, hlast, Nat.add_sub_cancel] at hwrite
    exact hread.trans hwrite

/-- The positions n + 1, n, ..., 1, and the end of the command. -/
theorem Engaged.searchFrom_passes {n : Nat} (hn : n + 1 ≤ 64) {s : State} (h : Engaged .searchNext s) :
    Passes (goTo .searchNext 3 (setPosition (n + 1) s)) (searchFrom (n + 1) s) := by
  induction n generalizing s with
  | zero => exact h.searchPosition_passes hn
  | succ n ih =>
    have hpos := h.searchPosition_passes hn
    rw [searchFrom_writtenAt]
    split
    · next hc => rwa [if_pos hc] at hpos
    · next hc =>
      rw [if_neg hc, if_neg (Nat.succ_ne_zero n)] at hpos
      exact hpos.trans (ih (Nat.le_of_succ_le hn) (h.writtenAt_engaged _))

/-! ### The addressing (R235) -/

theorem writeByteSeq_rom (v : Byte) (s : State) : (writeByteSeq v s).rom = s.rom := by
  rw [writeByteSeq_eq]
  rfl

theorem writeByteSeq_buf (v : Byte) (s : State) : (writeByteSeq v s).buf = s.buf := by
  rw [writeByteSeq_eq]
  rfl

/-- `Address(bcast)` at tick level, and the rest of the command after it. -/
theorem Engaged.address_passes {i : Instr} {s : State} (h : Engaged i s) {b : Bool} {ps : List Prim}
    (hi : prims i = addressPrims b ++ ps) (hsearch : i ≠ .searchNext) (hreset : i ≠ .reset) {rest : State → State}
    (hrest : ∀ u, Engaged i u → Passes (goTo i (addressPrims b).length u) (rest u)) :
    Passes (goTo i 0 s) (address b rest s) := by
  have h0 : (prims i)[0]? = some .prologue := by rw [hi]; cases b <;> rfl
  have h1 : (prims i)[1]? = some .reset := by rw [hi]; cases b <;> rfl
  have hstart := h.prologue_passes h0
  have hr := h.prologue_engaged.resetSlot_engaged
  unfold address
  dsimp only
  split
  · next hp =>
    refine hstart.trans ((h.prologue_engaged.resetSlot_passes_on h1 (.inl hp)).trans ?_)
    cases b with
    | true =>
      have h2 : (prims i)[2]? = some (.sendByte config.cmdSkipRom) := by rw [hi]; rfl
      exact (hr.sendByte_passes_on h2 hsearch).trans (hrest _ (hr.writeByteSeq_engaged _))
    | false =>
      have h2 : (prims i)[2]? = some (.sendByte config.cmdMatchRom) := by rw [hi]; rfl
      have h3 : (prims i)[3]? = some .sendRom := by rw [hi]; rfl
      have hw := hr.writeByteSeq_engaged config.cmdMatchRom
      have hrom := hw.sendRom_passes h3
      rw [writeByteSeq_rom] at hrom
      exact (hr.sendByte_passes_on h2 hsearch).trans (hrom.trans (hrest _ (hw.writeByteList_engaged _)))
  · next hp =>
    have ha := h.prologue_engaged.resetSlot_passes_absent h1 hp hreset
    rw [if_neg hsearch] at ha
    exact hstart.trans ha

/-! ### The commands (R352) -/

theorem Engaged.writeScratchpad_passes {i : Instr} {s : State} (h : Engaged i s)
    (hi : prims i = addressPrims false ++ [.sendByte config.cmdWriteScratch, .sendBuf 2 3])
    (hsearch : i ≠ .searchNext) (hreset : i ≠ .reset) (hend : ∀ u, complete i u = finish (assertPullUp u)) :
    Passes (goTo i 0 s) (writeScratchpad s) := by
  refine h.address_passes hi hsearch hreset fun u hu => ?_
  have h4 : (prims i)[4]? = some (.sendByte config.cmdWriteScratch) := by rw [hi]; rfl
  have h5 : (prims i)[5]? = some (.sendBuf 2 3) := by rw [hi]; rfl
  have h6 : (prims i)[6]? = none := by rw [hi]; rfl
  have hbuf := (hu.writeByteSeq_engaged config.cmdWriteScratch).sendBuf_passes (n := 2) h5
  rw [goTo_of_end h6, hend, writeByteSeq_buf] at hbuf
  exact (hu.sendByte_passes_on h4 hsearch).trans hbuf

/-- After the search-ROM byte the loop is entered (R207). -/
theorem nextPrim_searchByte (v : Byte) (k b j : Nat) (x : Byte) (c : Nat) (s : State) :
    nextPrim .searchNext (.sendByte v) (seqAt k b j x c s) =
      goTo .searchNext (k + 1) (setPosition 64 (clearWork s)) := by
  rw [nextPrim, if_pos rfl]
  exact goTo_seqAt .searchNext (k + 1) k b j x c (setPosition 64 (clearWork s))

theorem Engaged.searchNext_passes {s : State} (h : Engaged .searchNext s) (hl : s.ldisc ≠ 0) {t : State}
    (hx : exec .searchNext s = .next t) : Passes (goTo .searchNext 0 (setFound false s)) t := by
  have h0 : Engaged .searchNext (setFound false s) := ⟨h.busy, h.hold, h.run⟩
  have hr := h0.prologue_engaged.resetSlot_engaged
  have hstart := h0.prologue_passes rfl
  have he : exec .searchNext s = .next (if s.ldisc = 0 then raise .invalidArgument 5 s
    else if (resetSlot (prologue (setFound false s))).1 then
      searchFrom 64 (clearWork (writeByteSeq config.cmdSearchRom
        (resetSlot (prologue (setFound false s))).2))
    else raise .busAbsent 0 (setLdisc 0 (resetSlot (prologue (setFound false s))).2)) := rfl
  rw [if_neg hl] at he
  cases hx.symm.trans he
  split
  · next hp =>
    obtain ⟨x, hb⟩ := hr.sendByte_passes (v := config.cmdSearchRom) (k := 2) rfl
    rw [nextPrim_searchByte] at hb
    have hw := hr.writeByteSeq_engaged config.cmdSearchRom
    have hc : Engaged .searchNext (clearWork (writeByteSeq config.cmdSearchRom
      (resetSlot (prologue (setFound false s))).2)) := ⟨hw.busy, hw.hold, hw.run⟩
    exact hstart.trans ((h0.prologue_engaged.resetSlot_passes_on rfl (.inl hp)).trans
      (hb.trans (hc.searchFrom_passes (n := 63) (Nat.le_refl _))))
  · next hp => exact hstart.trans (h0.prologue_engaged.resetSlot_passes_absent rfl hp (by decide))

theorem Engaged.beforePrologue_engaged {i : Instr} {s : State} (h : Engaged i s) :
    Engaged i (beforePrologue i s) := by
  obtain ⟨h1, h2, h3⟩ := h
  cases i <;> exact ⟨h1, h2, h3⟩

/-- From the prologue of a bus-active command the pulses lead to the state that `exec` answers (R289, R352). -/
theorem Engaged.exec_passes {i : Instr} {s t : State} (h : Engaged i s) (hb : busActive i = true)
    (hr : refusedAtAcceptance i s = false) (hx : exec i s = .next t) :
    Passes (goTo i 0 (beforePrologue i s)) t := by
  have hwf := running_wf h.run
  have hp := h.prologue_engaged
  have hpro := h.prologue_passes (prims_zero hb)
  cases i with
  | nop | crcClr | crcUpd v | crcBuf n | crcRom b | searchInit | romTake | decodeTemp | getRes => cases hb
  | reset =>
    cases hx
    exact hpro.trans (hp.resetSlot_passes_on (k := 1) rfl (.inr rfl))
  | readBit =>
    cases hx
    exact hpro.trans (hp.readBit_passes (k := 1) rfl)
  | writeBit b =>
    cases hx
    exact hpro.trans (hp.writeBit_passes (k := 1) rfl)
  | readByte =>
    cases hx
    exact hpro.trans (hp.recvData_passes (k := 1) rfl)
  | writeByte v =>
    cases hx
    exact hpro.trans (hp.sendByte_passes_on (k := 1) rfl (by simp))
  | readBytes n =>
    obtain ⟨h1, h9⟩ := countOk_iff.mp hwf
    obtain ⟨m, hm⟩ := Nat.exists_eq_add_of_le' h1
    have he : exec (.readBytes n) s = .next (finish (readBufFrom 0 n.toNat (prologue s))) :=
      congrArg _ (if_neg (not_badCount h1 h9))
    cases hx.symm.trans he
    have hbuf := hp.recvBuf_passes (k := 1) (n := m) (by rw [prims, hm]; rfl)
    rw [← hm] at hbuf
    exact hpro.trans hbuf
  | writeBytes n =>
    obtain ⟨h1, h9⟩ := countOk_iff.mp hwf
    obtain ⟨m, hm⟩ := Nat.exists_eq_add_of_le' h1
    have he : exec (.writeBytes n) s =
        .next (finish (writeByteList (bufBytes s.buf 0 n.toNat) (prologue s))) :=
      congrArg _ (if_neg (not_badCount h1 h9))
    cases hx.symm.trans he
    have hbuf := hp.sendBuf_passes (k := 1) (a := 0) (n := m) (by rw [prims, hm]; rfl)
    rw [← hm] at hbuf
    exact hpro.trans hbuf
  | searchNext =>
    exact h.searchNext_passes (fun hl => by simp [refusedAtAcceptance, hl] at hr) hx
  | select =>
    cases hx
    exact h.address_passes (b := false) (ps := []) rfl (by decide) (by decide) fun u _ => Passes.refl _
  | skip =>
    cases hx
    exact h.address_passes (b := true) (ps := []) rfl (by decide) (by decide) fun u _ => Passes.refl _
  | convert b =>
    cases hx
    refine h.address_passes (ps := [.sendByte config.cmdConvertT]) rfl (by simp) (by simp) fun u hu => ?_
    cases b <;> exact hu.sendByte_passes_on rfl (by decide)
  | readSpad =>
    cases hx
    have hs : Engaged .readSpad (setTvalid false s) := ⟨h.busy, h.hold, h.run⟩
    refine hs.address_passes (ps := [.sendByte config.cmdReadScratch, .recvBuf 9]) rfl (by decide) (by decide)
      fun u hu => ?_
    have hw := hu.writeByteSeq_engaged config.cmdReadScratch
    exact (hu.sendByte_passes_on (k := 4) rfl (by decide)).trans (hw.recvBuf_passes (k := 5) (n := 8) rfl)
  | writeSpad =>
    cases hx
    exact h.writeScratchpad_passes rfl (by decide) (by decide) fun _ => rfl
  | setRes b =>
    obtain ⟨h9, h12⟩ := resolutionOk_iff.mp hwf
    cases hx.symm.trans (exec_setRes h9 h12 s)
    have hs : Engaged (.setRes b) (setBufByte 4 (configByte b) s) := ⟨h.busy, h.hold, h.run⟩
    exact hs.writeScratchpad_passes rfl (by simp) (by simp) fun _ => rfl
  | powerMode b =>
    cases hx
    refine h.address_passes (ps := [.sendByte config.cmdReadPower, .readBit]) rfl (by simp) (by simp) fun u hu => ?_
    have hw := hu.writeByteSeq_engaged config.cmdReadPower
    cases b with
    | false => exact (hu.sendByte_passes_on (k := 4) rfl (by decide)).trans (hw.readBit_passes (k := 5) rfl)
    | true => exact (hu.sendByte_passes_on (k := 3) rfl (by decide)).trans (hw.readBit_passes (k := 4) rfl)

/-! ### The whole run (R140, R352) -/

/-- Slot by slot to the end of the command: as many more pulses leave it running as the slot level counts ticks. -/
theorem Passes.endsAfter {s t : State} (h : Passes s t) (hb : s.busy = true) (hh : s.hold = none)
    (ht : t.busy = false) : ∃ n, t.ticks = s.ticks + n ∧ EndsAfter n s t := by
  obtain ⟨n, hn, hbusy, hlast⟩ := h
  have hs : begun s = usTick s := if_pos hb
  have hend : begun t = t := if_neg (by rw [ht]; decide)
  rw [hs] at hbusy hlast
  rw [hend] at hlast
  refine ⟨n, hn, fun m hm => ?_, hlast, ht⟩
  cases m with
  | zero => exact ⟨hb, hh⟩
  | succ m => exact hbusy m hm

theorem beforePrologue_takeInput (xs : List Input) (i : Instr) (s : State) :
    beforePrologue i (takeInput xs s) = takeInput xs (beforePrologue i s) := by
  cases i <;> rfl

theorem beforePrologue_ticks (i : Instr) (s : State) : (beforePrologue i s).ticks = s.ticks := by
  cases i <;> rfl

/-- The edge of the CMD write of a bus-active command, whatever pulse it carries (R281). -/
theorem step_launch {s : State} {w : Word} {i : Instr} (hb : s.busy = false) (hd : decode w = .ok i)
    (hbus : busActive i = true) (href : refusedAtAcceptance i s = false) {u : Bool} {xs : List Input}
    (hin : s.inputs = .clk ⟨false, u, some (.write 0x00 w)⟩ :: xs) :
    step s = .next (takeInput xs (launch i w s)) := by
  have hstart : startCommand w (takeInput xs s) = .next (launch i w (takeInput xs s)) := by
    have hr : refusedAtAcceptance i (takeInput xs s) = false := href
    simp only [startCommand, hd, hbus, hr, Bool.not_false, Bool.and_self, if_true]
  have hlaunch : launch i w (takeInput xs s) = takeInput xs (launch i w s) := by
    have ha : accept w (takeInput xs s) = takeInput xs (accept w s) := rfl
    rw [launch, ha, beforePrologue_takeInput, goTo_takeInput, launch]
  rw [step_clk hin, clkEdge_write]
  simp only [stateEdge, writeEdge, takeInput_busy, hb, Bool.false_eq_true, if_false, if_true]
  rw [hstart, hlaunch]

/-- A launched command runs to the state that `exec` answers, over as many pulses as it counts ticks, and one. -/
theorem launch_endsAfter {s t : State} {w : Word} {i : Instr} (hh : s.hold = none) (hd : decode w = .ok i)
    (hbus : busActive i = true) (href : refusedAtAcceptance i s = false) (hx : exec i (accept w s) = .next t) :
    ∃ n, t.ticks = s.ticks + n ∧ EndsAfter n (launch i w s) t := by
  have he : Engaged i (accept w s) := ⟨rfl, hh, running_accept hd s⟩
  have hlaunch : launch i w s = seqAt 0 0 0 0 0 (beforePrologue i (accept w s)) := goTo_of_prim (prims_zero hbus) _
  have hpass : Passes (launch i w s) t := he.exec_passes hbus href hx
  obtain ⟨c, n, -, -, ht, -⟩ := exec_ended hx
  have hticks : (launch i w s).ticks = s.ticks := by
    rw [hlaunch]
    exact beforePrologue_ticks i (accept w s)
  rw [← hticks]
  refine hpass.endsAfter ?_ ?_ ht
  · rw [hlaunch]
    exact he.beforePrologue_engaged.busy
  · rw [hlaunch]
    exact he.beforePrologue_engaged.hold

/-- Settles O32: the launch of the command, its slots one after the other up to the state of `exec`, and the quiet
edges of `clk` by the pulses among them. -/
theorem tickLevelRunEqualsSlotLevel : Obligations.TickLevelRunEqualsSlotLevel := by
  intro s t w i u cs rest hb hi hd hbus href hin hcs hx
  have hh : s.hold = none := by
    simp only [State.idleOk, Bool.and_eq_true, Option.isNone_iff_eq_none] at hi
    obtain ⟨⟨⟨-, hh⟩, -⟩, -⟩ := hi
    exact hh
  obtain ⟨n, hn, hends⟩ := launch_endsAfter hh hd hbus href hx
  have hrun := (run_succ (step_launch hb hd hbus href hin) cs.length).trans (hends.run hcs rest)
  refine ⟨fun hlt => ?_, fun hle => ?_⟩
  · rwa [if_neg (by omega)] at hrun
  · have hc : cs.countP (·.usTick) ≤ n := by omega
    rw [if_pos hc] at hrun
    exact ⟨_, hrun, (hends.busy _ hc).1⟩

end Sys2Proof.Machine
end
